-- ==== Sys2Proof/Word.lean ====
section
/-! DEFINITION. The words of the VAX-11/780: bytes, longwords, register numbers (00_scope.md R10, R19). -/
namespace Sys2Proof

/-- A byte (R19). -/
abbrev Byte := BitVec 8
/-- A longword (R19). -/
abbrev Word := BitVec 32
/-- A general register number, R0 to R15; 12 is AP, 13 FP, 14 SP, 15 PC (10_state.md R40). -/
abbrev Reg := Fin 16

/-- The program counter's register number (R40). -/
abbrev rPC : Reg := 15
/-- The stack pointer's register number (R40). -/
abbrev rSP : Reg := 14
/-- The frame pointer's register number (R40). -/
abbrev rFP : Reg := 13
/-- The argument pointer's register number (R40). -/
abbrev rAP : Reg := 12

end Sys2Proof
end

