-- ==== Sys2Proof/Machine/Specifier.lean ====
section
/-! DEFINITION. Operands as data: access and data types, operand specifiers (00_scope.md R16; 30_encoding.md R242,
R247 to R264). -/
namespace Sys2Proof

/-- The way an operand is accessed (00_scope.md R16). -/
inductive Access where
  | read | write | modify | address | field | branch
  deriving DecidableEq, Repr

/-- The data type of an operand: byte, word, longword, quadword, F_floating, D_floating (R16). -/
inductive DType where
  | b | w | l | q | f | d
  deriving DecidableEq, Repr

/-- Operand size in bytes (30_encoding.md R247). -/
def DType.size : DType → Nat
  | .b => 1 | .w => 2 | .l => 4 | .f => 4 | .q => 8 | .d => 8

/-- Whether a short literal expands as a floating datum (R253). -/
def DType.isFloat : DType → Bool
  | .f => true | .d => true | _ => false

/-- Access and data type of one operand, fixed by the opcode (R240). -/
structure Kind where
  acc : Access
  ty : DType
  deriving DecidableEq, Repr

/-- A specifier that may stand under an index prefix, with its extension (R249, modes 6 to F). -/
inductive BaseSpec where
  /-- 6n `(Rn)` (R254). -/
  | regDef (n : Reg)
  /-- 7n `-(Rn)` (R255). -/
  | autoDec (n : Reg)
  /-- 8n `(Rn)+`, n not 15 (R256). -/
  | autoInc (n : Reg)
  /-- 8F immediate: the constant, of the operand's size, in the low bits (R261). -/
  | imm (v : BitVec 64)
  /-- 9n `@(Rn)+`, n not 15 (R257). -/
  | autoIncDef (n : Reg)
  /-- 9F absolute (R261). -/
  | abs (a : Word)
  /-- An `B^d(Rn)` (R258). -/
  | dispB (n : Reg) (d : BitVec 8)
  /-- Bn `@B^d(Rn)` (R259). -/
  | dispBDef (n : Reg) (d : BitVec 8)
  /-- Cn `W^d(Rn)` (R258). -/
  | dispW (n : Reg) (d : BitVec 16)
  /-- Dn `@W^d(Rn)` (R259). -/
  | dispWDef (n : Reg) (d : BitVec 16)
  /-- En `L^d(Rn)` (R258). -/
  | dispL (n : Reg) (d : Word)
  /-- Fn `@L^d(Rn)` (R259). -/
  | dispLDef (n : Reg) (d : Word)
  deriving DecidableEq, Repr

/-- An operand specifier (R249). -/
inductive Spec where
  /-- 00 to 3F, short literal (R253). -/
  | lit (v : BitVec 6)
  /-- 5n, register mode (R254). -/
  | reg (n : Reg)
  /-- Any mode 6 to F without index. -/
  | base (b : BaseSpec)
  /-- 4x followed by a base specifier (R260). -/
  | index (x : Reg) (b : BaseSpec)
  /-- 4x followed by a byte that is no base specifier: literal, index or register mode (R260, R265). -/
  | indexBad (x : Reg) (b : Byte)
  deriving DecidableEq, Repr

/-- One encoded operand: a specifier or a branch displacement (R242, R264). -/
inductive Operand where
  | spec (s : Spec)
  | dispB (d : BitVec 8)
  | dispW (d : BitVec 16)
  deriving DecidableEq, Repr

end Sys2Proof
end

