-- ==== Sys2Proof/Syntax.lean ====
section
/-! DEFINITION. Instructions as data: the 256 rows of spec/opcode_table.json (30_encoding.md R240, R262, R263). -/
namespace Sys2Proof

/-- One constructor per row of the opcode table (R262, R263). The operands stand in the order of the
instruction stream; the word table of CASEB, CASEW and CASEL is no part of the decoded instruction (R245). The rows
without operands stand last: Lean's runtime bounds the tags of constructors with fields. -/
inductive Instr where
  /-- 08 CVTPS (R700). -/
  | cvtps (srclen : Spec) (srcaddr : Spec) (dstlen : Spec) (dstaddr : Spec)
  /-- 09 CVTSP (R701). -/
  | cvtsp (srclen : Spec) (srcaddr : Spec) (dstlen : Spec) (dstaddr : Spec)
  /-- 0A INDEX (R566). -/
  | index (subscript : Spec) (low : Spec) (high : Spec) (size : Spec) (indexin : Spec) (indexout : Spec)
  /-- 0B CRC (R683). -/
  | crc (tbl : Spec) (inicrc : Spec) (strlen : Spec) (stream : Spec)
  /-- 0C PROBER (R327). -/
  | prober (mode : Spec) (len : Spec) (base : Spec)
  /-- 0D PROBEW (R328). -/
  | probew (mode : Spec) (len : Spec) (base : Spec)
  /-- 0E INSQUE (R559). -/
  | insque (entry : Spec) (pred : Spec)
  /-- 0F REMQUE (R560). -/
  | remque (entry : Spec) (addr : Spec)
  /-- 10 BSBB (R487). -/
  | bsbb (displ : BitVec 8)
  /-- 11 BRB (R472). -/
  | brb (displ : BitVec 8)
  /-- 12 BNEQ (R475). -/
  | bneq (displ : BitVec 8)
  /-- 13 BEQL (R476). -/
  | beql (displ : BitVec 8)
  /-- 14 BGTR (R477). -/
  | bgtr (displ : BitVec 8)
  /-- 15 BLEQ (R478). -/
  | bleq (displ : BitVec 8)
  /-- 16 JSB (R489). -/
  | jsb (dst : Spec)
  /-- 17 JMP (R474). -/
  | jmp (dst : Spec)
  /-- 18 BGEQ (R479). -/
  | bgeq (displ : BitVec 8)
  /-- 19 BLSS (R480). -/
  | blss (displ : BitVec 8)
  /-- 1A BGTRU (R481). -/
  | bgtru (displ : BitVec 8)
  /-- 1B BLEQU (R482). -/
  | blequ (displ : BitVec 8)
  /-- 1C BVC (R483). -/
  | bvc (displ : BitVec 8)
  /-- 1D BVS (R484). -/
  | bvs (displ : BitVec 8)
  /-- 1E BCC (R485). -/
  | bcc (displ : BitVec 8)
  /-- 1F BCS (R486). -/
  | bcs (displ : BitVec 8)
  /-- 20 ADDP4 (R690). -/
  | addp4 (addlen : Spec) (addaddr : Spec) (sumlen : Spec) (sumaddr : Spec)
  /-- 21 ADDP6 (R691). -/
  | addp6 (add1len : Spec) (add1addr : Spec) (add2len : Spec) (add2addr : Spec) (sumlen : Spec) (sumaddr : Spec)
  /-- 22 SUBP4 (R692). -/
  | subp4 (sublen : Spec) (subaddr : Spec) (diflen : Spec) (difaddr : Spec)
  /-- 23 SUBP6 (R693). -/
  | subp6 (sublen : Spec) (subaddr : Spec) (minlen : Spec) (minaddr : Spec) (diflen : Spec) (difaddr : Spec)
  /-- 24 CVTPT (R698). -/
  | cvtpt (srclen : Spec) (srcaddr : Spec) (tbladdr : Spec) (dstlen : Spec) (dstaddr : Spec)
  /-- 25 MULP (R694). -/
  | mulp (mulrlen : Spec) (mulraddr : Spec) (muldlen : Spec) (muldaddr : Spec) (prodlen : Spec) (prodaddr : Spec)
  /-- 26 CVTTP (R699). -/
  | cvttp (srclen : Spec) (srcaddr : Spec) (tbladdr : Spec) (dstlen : Spec) (dstaddr : Spec)
  /-- 27 DIVP (R695). -/
  | divp (divrlen : Spec) (divraddr : Spec) (divdlen : Spec) (divdaddr : Spec) (quolen : Spec) (quoaddr : Spec)
  /-- 28 MOVC3 (R672). -/
  | movc3 (len : Spec) (srcaddr : Spec) (dstaddr : Spec)
  /-- 29 CMPC3 (R674). -/
  | cmpc3 (len : Spec) (src1addr : Spec) (src2addr : Spec)
  /-- 2A SCANC (R676). -/
  | scanc (len : Spec) (addr : Spec) (tbladdr : Spec) (mask : Spec)
  /-- 2B SPANC (R677). -/
  | spanc (len : Spec) (addr : Spec) (tbladdr : Spec) (mask : Spec)
  /-- 2C MOVC5 (R673). -/
  | movc5 (srclen : Spec) (srcaddr : Spec) (fill : Spec) (dstlen : Spec) (dstaddr : Spec)
  /-- 2D CMPC5 (R675). -/
  | cmpc5 (src1len : Spec) (src1addr : Spec) (fill : Spec) (src2len : Spec) (src2addr : Spec)
  /-- 2E MOVTC (R681). -/
  | movtc (srclen : Spec) (srcaddr : Spec) (fill : Spec) (tbladdr : Spec) (dstlen : Spec) (dstaddr : Spec)
  /-- 2F MOVTUC (R682). -/
  | movtuc (srclen : Spec) (srcaddr : Spec) (esc : Spec) (tbladdr : Spec) (dstlen : Spec) (dstaddr : Spec)
  /-- 30 BSBW (R488). -/
  | bsbw (displ : BitVec 16)
  /-- 31 BRW (R473). -/
  | brw (displ : BitVec 16)
  /-- 32 CVTWL (R394). -/
  | cvtwl (src : Spec) (dst : Spec)
  /-- 33 CVTWB (R393). -/
  | cvtwb (src : Spec) (dst : Spec)
  /-- 34 MOVP (R687). -/
  | movp (len : Spec) (srcaddr : Spec) (dstaddr : Spec)
  /-- 35 CMPP3 (R688). -/
  | cmpp3 (len : Spec) (src1addr : Spec) (src2addr : Spec)
  /-- 36 CVTPL (R697). -/
  | cvtpl (srclen : Spec) (srcaddr : Spec) (dst : Spec)
  /-- 37 CMPP4 (R689). -/
  | cmpp4 (src1len : Spec) (src1addr : Spec) (src2len : Spec) (src2addr : Spec)
  /-- 38 EDITPC (R703). -/
  | editpc (srclen : Spec) (srcaddr : Spec) (pattern : Spec) (dstaddr : Spec)
  /-- 39 MATCHC (R680). -/
  | matchc (objlen : Spec) (objaddr : Spec) (srclen : Spec) (srcaddr : Spec)
  /-- 3A LOCC (R678). -/
  | locc (char : Spec) (len : Spec) (addr : Spec)
  /-- 3B SKPC (R679). -/
  | skpc (char : Spec) (len : Spec) (addr : Spec)
  /-- 3C MOVZWL (R390). -/
  | movzwl (src : Spec) (dst : Spec)
  /-- 3D ACBW (R494). -/
  | acbw (limit : Spec) (add : Spec) (idx : Spec) (displ : BitVec 16)
  /-- 3E MOVAW (R463). -/
  | movaw (src : Spec) (dst : Spec)
  /-- 3F PUSHAW (R467). -/
  | pushaw (src : Spec)
  /-- 40 ADDF2 (R604). -/
  | addf2 (add : Spec) (sum : Spec)
  /-- 41 ADDF3 (R605). -/
  | addf3 (add1 : Spec) (add2 : Spec) (sum : Spec)
  /-- 42 SUBF2 (R608). -/
  | subf2 (sub : Spec) (dif : Spec)
  /-- 43 SUBF3 (R609). -/
  | subf3 (sub : Spec) (minuend : Spec) (dif : Spec)
  /-- 44 MULF2 (R612). -/
  | mulf2 (mulr : Spec) (prod : Spec)
  /-- 45 MULF3 (R613). -/
  | mulf3 (mulr : Spec) (muld : Spec) (prod : Spec)
  /-- 46 DIVF2 (R616). -/
  | divf2 (divr : Spec) (quo : Spec)
  /-- 47 DIVF3 (R617). -/
  | divf3 (divr : Spec) (divd : Spec) (quo : Spec)
  /-- 48 CVTFB (R628). -/
  | cvtfb (src : Spec) (dst : Spec)
  /-- 49 CVTFW (R630). -/
  | cvtfw (src : Spec) (dst : Spec)
  /-- 4A CVTFL (R632). -/
  | cvtfl (src : Spec) (dst : Spec)
  /-- 4B CVTRFL (R634). -/
  | cvtrfl (src : Spec) (dst : Spec)
  /-- 4C CVTBF (R636). -/
  | cvtbf (src : Spec) (dst : Spec)
  /-- 4D CVTWF (R638). -/
  | cvtwf (src : Spec) (dst : Spec)
  /-- 4E CVTLF (R640). -/
  | cvtlf (src : Spec) (dst : Spec)
  /-- 4F ACBF (R649). -/
  | acbf (limit : Spec) (add : Spec) (idx : Spec) (displ : BitVec 16)
  /-- 50 MOVF (R620). -/
  | movf (src : Spec) (dst : Spec)
  /-- 51 CMPF (R624). -/
  | cmpf (src1 : Spec) (src2 : Spec)
  /-- 52 MNEGF (R622). -/
  | mnegf (src : Spec) (dst : Spec)
  /-- 53 TSTF (R626). -/
  | tstf (src : Spec)
  /-- 54 EMODF (R644). -/
  | emodf (mulr : Spec) (mulrx : Spec) (muld : Spec) (int : Spec) (fract : Spec)
  /-- 55 POLYF (R647). -/
  | polyf (arg : Spec) (degree : Spec) (tbladdr : Spec)
  /-- 56 CVTFD (R642). -/
  | cvtfd (src : Spec) (dst : Spec)
  /-- 58 ADAWI (R420). -/
  | adawi (add : Spec) (sum : Spec)
  /-- 60 ADDD2 (R606). -/
  | addd2 (add : Spec) (sum : Spec)
  /-- 61 ADDD3 (R607). -/
  | addd3 (add1 : Spec) (add2 : Spec) (sum : Spec)
  /-- 62 SUBD2 (R610). -/
  | subd2 (sub : Spec) (dif : Spec)
  /-- 63 SUBD3 (R611). -/
  | subd3 (sub : Spec) (minuend : Spec) (dif : Spec)
  /-- 64 MULD2 (R614). -/
  | muld2 (mulr : Spec) (prod : Spec)
  /-- 65 MULD3 (R615). -/
  | muld3 (mulr : Spec) (muld : Spec) (prod : Spec)
  /-- 66 DIVD2 (R618). -/
  | divd2 (divr : Spec) (quo : Spec)
  /-- 67 DIVD3 (R619). -/
  | divd3 (divr : Spec) (divd : Spec) (quo : Spec)
  /-- 68 CVTDB (R629). -/
  | cvtdb (src : Spec) (dst : Spec)
  /-- 69 CVTDW (R631). -/
  | cvtdw (src : Spec) (dst : Spec)
  /-- 6A CVTDL (R633). -/
  | cvtdl (src : Spec) (dst : Spec)
  /-- 6B CVTRDL (R635). -/
  | cvtrdl (src : Spec) (dst : Spec)
  /-- 6C CVTBD (R637). -/
  | cvtbd (src : Spec) (dst : Spec)
  /-- 6D CVTWD (R639). -/
  | cvtwd (src : Spec) (dst : Spec)
  /-- 6E CVTLD (R641). -/
  | cvtld (src : Spec) (dst : Spec)
  /-- 6F ACBD (R650). -/
  | acbd (limit : Spec) (add : Spec) (idx : Spec) (displ : BitVec 16)
  /-- 70 MOVD (R621). -/
  | movd (src : Spec) (dst : Spec)
  /-- 71 CMPD (R625). -/
  | cmpd (src1 : Spec) (src2 : Spec)
  /-- 72 MNEGD (R623). -/
  | mnegd (src : Spec) (dst : Spec)
  /-- 73 TSTD (R627). -/
  | tstd (src : Spec)
  /-- 74 EMODD (R645). -/
  | emodd (mulr : Spec) (mulrx : Spec) (muld : Spec) (int : Spec) (fract : Spec)
  /-- 75 POLYD (R648). -/
  | polyd (arg : Spec) (degree : Spec) (tbladdr : Spec)
  /-- 76 CVTDF (R643). -/
  | cvtdf (src : Spec) (dst : Spec)
  /-- 78 ASHL (R459). -/
  | ashl (cnt : Spec) (src : Spec) (dst : Spec)
  /-- 79 ASHQ (R460). -/
  | ashq (cnt : Spec) (src : Spec) (dst : Spec)
  /-- 7A EMUL (R433). -/
  | emul (mulr : Spec) (muld : Spec) (add : Spec) (prod : Spec)
  /-- 7B EDIV (R434). -/
  | ediv (divr : Spec) (divd : Spec) (quo : Spec) (rem : Spec)
  /-- 7C CLRQ (R381). -/
  | clrq (dst : Spec)
  /-- 7D MOVQ (R376). -/
  | movq (src : Spec) (dst : Spec)
  /-- 7E MOVAQ (R465). -/
  | movaq (src : Spec) (dst : Spec)
  /-- 7F PUSHAQ (R469). -/
  | pushaq (src : Spec)
  /-- 80 ADDB2 (R412). -/
  | addb2 (add : Spec) (sum : Spec)
  /-- 81 ADDB3 (R413). -/
  | addb3 (add1 : Spec) (add2 : Spec) (sum : Spec)
  /-- 82 SUBB2 (R421). -/
  | subb2 (sub : Spec) (dif : Spec)
  /-- 83 SUBB3 (R422). -/
  | subb3 (sub : Spec) (minuend : Spec) (dif : Spec)
  /-- 84 MULB2 (R427). -/
  | mulb2 (mulr : Spec) (prod : Spec)
  /-- 85 MULB3 (R428). -/
  | mulb3 (mulr : Spec) (muld : Spec) (prod : Spec)
  /-- 86 DIVB2 (R435). -/
  | divb2 (divr : Spec) (quo : Spec)
  /-- 87 DIVB3 (R436). -/
  | divb3 (divr : Spec) (divd : Spec) (quo : Spec)
  /-- 88 BISB2 (R441). -/
  | bisb2 (mask : Spec) (dst : Spec)
  /-- 89 BISB3 (R442). -/
  | bisb3 (mask : Spec) (src : Spec) (dst : Spec)
  /-- 8A BICB2 (R447). -/
  | bicb2 (mask : Spec) (dst : Spec)
  /-- 8B BICB3 (R448). -/
  | bicb3 (mask : Spec) (src : Spec) (dst : Spec)
  /-- 8C XORB2 (R453). -/
  | xorb2 (mask : Spec) (dst : Spec)
  /-- 8D XORB3 (R454). -/
  | xorb3 (mask : Spec) (src : Spec) (dst : Spec)
  /-- 8E MNEGB (R382). -/
  | mnegb (src : Spec) (dst : Spec)
  /-- 8F CASEB (R501). -/
  | caseb (selector : Spec) (base : Spec) (limit : Spec)
  /-- 90 MOVB (R373). -/
  | movb (src : Spec) (dst : Spec)
  /-- 91 CMPB (R397). -/
  | cmpb (src1 : Spec) (src2 : Spec)
  /-- 92 MCOMB (R385). -/
  | mcomb (src : Spec) (dst : Spec)
  /-- 93 BITB (R403). -/
  | bitb (mask : Spec) (src : Spec)
  /-- 94 CLRB (R378). -/
  | clrb (dst : Spec)
  /-- 95 TSTB (R400). -/
  | tstb (src : Spec)
  /-- 96 INCB (R406). -/
  | incb (sum : Spec)
  /-- 97 DECB (R409). -/
  | decb (dif : Spec)
  /-- 98 CVTBL (R392). -/
  | cvtbl (src : Spec) (dst : Spec)
  /-- 99 CVTBW (R391). -/
  | cvtbw (src : Spec) (dst : Spec)
  /-- 9A MOVZBL (R389). -/
  | movzbl (src : Spec) (dst : Spec)
  /-- 9B MOVZBW (R388). -/
  | movzbw (src : Spec) (dst : Spec)
  /-- 9C ROTL (R461). -/
  | rotl (cnt : Spec) (src : Spec) (dst : Spec)
  /-- 9D ACBB (R493). -/
  | acbb (limit : Spec) (add : Spec) (idx : Spec) (displ : BitVec 16)
  /-- 9E MOVAB (R462). -/
  | movab (src : Spec) (dst : Spec)
  /-- 9F PUSHAB (R466). -/
  | pushab (src : Spec)
  /-- A0 ADDW2 (R414). -/
  | addw2 (add : Spec) (sum : Spec)
  /-- A1 ADDW3 (R415). -/
  | addw3 (add1 : Spec) (add2 : Spec) (sum : Spec)
  /-- A2 SUBW2 (R423). -/
  | subw2 (sub : Spec) (dif : Spec)
  /-- A3 SUBW3 (R424). -/
  | subw3 (sub : Spec) (minuend : Spec) (dif : Spec)
  /-- A4 MULW2 (R429). -/
  | mulw2 (mulr : Spec) (prod : Spec)
  /-- A5 MULW3 (R430). -/
  | mulw3 (mulr : Spec) (muld : Spec) (prod : Spec)
  /-- A6 DIVW2 (R437). -/
  | divw2 (divr : Spec) (quo : Spec)
  /-- A7 DIVW3 (R438). -/
  | divw3 (divr : Spec) (divd : Spec) (quo : Spec)
  /-- A8 BISW2 (R443). -/
  | bisw2 (mask : Spec) (dst : Spec)
  /-- A9 BISW3 (R444). -/
  | bisw3 (mask : Spec) (src : Spec) (dst : Spec)
  /-- AA BICW2 (R449). -/
  | bicw2 (mask : Spec) (dst : Spec)
  /-- AB BICW3 (R450). -/
  | bicw3 (mask : Spec) (src : Spec) (dst : Spec)
  /-- AC XORW2 (R455). -/
  | xorw2 (mask : Spec) (dst : Spec)
  /-- AD XORW3 (R456). -/
  | xorw3 (mask : Spec) (src : Spec) (dst : Spec)
  /-- AE MNEGW (R383). -/
  | mnegw (src : Spec) (dst : Spec)
  /-- AF CASEW (R502). -/
  | casew (selector : Spec) (base : Spec) (limit : Spec)
  /-- B0 MOVW (R374). -/
  | movw (src : Spec) (dst : Spec)
  /-- B1 CMPW (R398). -/
  | cmpw (src1 : Spec) (src2 : Spec)
  /-- B2 MCOMW (R386). -/
  | mcomw (src : Spec) (dst : Spec)
  /-- B3 BITW (R404). -/
  | bitw (mask : Spec) (src : Spec)
  /-- B4 CLRW (R379). -/
  | clrw (dst : Spec)
  /-- B5 TSTW (R401). -/
  | tstw (src : Spec)
  /-- B6 INCW (R407). -/
  | incw (sum : Spec)
  /-- B7 DECW (R410). -/
  | decw (dif : Spec)
  /-- B8 BISPSW (R564). -/
  | bispsw (mask : Spec)
  /-- B9 BICPSW (R565). -/
  | bicpsw (mask : Spec)
  /-- BA POPR (R562). -/
  | popr (mask : Spec)
  /-- BB PUSHR (R561). -/
  | pushr (mask : Spec)
  /-- BC CHMK (R323). -/
  | chmk (code : Spec)
  /-- BD CHME (R324). -/
  | chme (code : Spec)
  /-- BE CHMS (R325). -/
  | chms (code : Spec)
  /-- BF CHMU (R326). -/
  | chmu (code : Spec)
  /-- C0 ADDL2 (R416). -/
  | addl2 (add : Spec) (sum : Spec)
  /-- C1 ADDL3 (R417). -/
  | addl3 (add1 : Spec) (add2 : Spec) (sum : Spec)
  /-- C2 SUBL2 (R425). -/
  | subl2 (sub : Spec) (dif : Spec)
  /-- C3 SUBL3 (R426). -/
  | subl3 (sub : Spec) (minuend : Spec) (dif : Spec)
  /-- C4 MULL2 (R431). -/
  | mull2 (mulr : Spec) (prod : Spec)
  /-- C5 MULL3 (R432). -/
  | mull3 (mulr : Spec) (muld : Spec) (prod : Spec)
  /-- C6 DIVL2 (R439). -/
  | divl2 (divr : Spec) (quo : Spec)
  /-- C7 DIVL3 (R440). -/
  | divl3 (divr : Spec) (divd : Spec) (quo : Spec)
  /-- C8 BISL2 (R445). -/
  | bisl2 (mask : Spec) (dst : Spec)
  /-- C9 BISL3 (R446). -/
  | bisl3 (mask : Spec) (src : Spec) (dst : Spec)
  /-- CA BICL2 (R451). -/
  | bicl2 (mask : Spec) (dst : Spec)
  /-- CB BICL3 (R452). -/
  | bicl3 (mask : Spec) (src : Spec) (dst : Spec)
  /-- CC XORL2 (R457). -/
  | xorl2 (mask : Spec) (dst : Spec)
  /-- CD XORL3 (R458). -/
  | xorl3 (mask : Spec) (src : Spec) (dst : Spec)
  /-- CE MNEGL (R384). -/
  | mnegl (src : Spec) (dst : Spec)
  /-- CF CASEL (R503). -/
  | casel (selector : Spec) (base : Spec) (limit : Spec)
  /-- D0 MOVL (R375). -/
  | movl (src : Spec) (dst : Spec)
  /-- D1 CMPL (R399). -/
  | cmpl (src1 : Spec) (src2 : Spec)
  /-- D2 MCOML (R387). -/
  | mcoml (src : Spec) (dst : Spec)
  /-- D3 BITL (R405). -/
  | bitl (mask : Spec) (src : Spec)
  /-- D4 CLRL (R380). -/
  | clrl (dst : Spec)
  /-- D5 TSTL (R402). -/
  | tstl (src : Spec)
  /-- D6 INCL (R408). -/
  | incl (sum : Spec)
  /-- D7 DECL (R411). -/
  | decl (dif : Spec)
  /-- D8 ADWC (R418). -/
  | adwc (add : Spec) (sum : Spec)
  /-- D9 SBWC (R419). -/
  | sbwc (sub : Spec) (dif : Spec)
  /-- DA MTPR (R330). -/
  | mtpr (src : Spec) (regnumber : Spec)
  /-- DB MFPR (R331). -/
  | mfpr (regnumber : Spec) (dst : Spec)
  /-- DC MOVPSL (R563). -/
  | movpsl (dst : Spec)
  /-- DD PUSHL (R377). -/
  | pushl (src : Spec)
  /-- DE MOVAL (R464). -/
  | moval (src : Spec) (dst : Spec)
  /-- DF PUSHAL (R468). -/
  | pushal (src : Spec)
  /-- E0 BBS (R550). -/
  | bbs (pos : Spec) (base : Spec) (displ : BitVec 8)
  /-- E1 BBC (R551). -/
  | bbc (pos : Spec) (base : Spec) (displ : BitVec 8)
  /-- E2 BBSS (R552). -/
  | bbss (pos : Spec) (base : Spec) (displ : BitVec 8)
  /-- E3 BBCS (R553). -/
  | bbcs (pos : Spec) (base : Spec) (displ : BitVec 8)
  /-- E4 BBSC (R554). -/
  | bbsc (pos : Spec) (base : Spec) (displ : BitVec 8)
  /-- E5 BBCC (R555). -/
  | bbcc (pos : Spec) (base : Spec) (displ : BitVec 8)
  /-- E6 BBSSI (R556). -/
  | bbssi (pos : Spec) (base : Spec) (displ : BitVec 8)
  /-- E7 BBCCI (R557). -/
  | bbcci (pos : Spec) (base : Spec) (displ : BitVec 8)
  /-- E8 BLBS (R491). -/
  | blbs (src : Spec) (displ : BitVec 8)
  /-- E9 BLBC (R492). -/
  | blbc (src : Spec) (displ : BitVec 8)
  /-- EA FFS (R547). -/
  | ffs (startpos : Spec) (size : Spec) (base : Spec) (findpos : Spec)
  /-- EB FFC (R548). -/
  | ffc (startpos : Spec) (size : Spec) (base : Spec) (findpos : Spec)
  /-- EC CMPV (R545). -/
  | cmpv (pos : Spec) (size : Spec) (base : Spec) (src : Spec)
  /-- ED CMPZV (R546). -/
  | cmpzv (pos : Spec) (size : Spec) (base : Spec) (src : Spec)
  /-- EE EXTV (R542). -/
  | extv (pos : Spec) (size : Spec) (base : Spec) (dst : Spec)
  /-- EF EXTZV (R543). -/
  | extzv (pos : Spec) (size : Spec) (base : Spec) (dst : Spec)
  /-- F0 INSV (R544). -/
  | insv (src : Spec) (pos : Spec) (size : Spec) (base : Spec)
  /-- F1 ACBL (R495). -/
  | acbl (limit : Spec) (add : Spec) (idx : Spec) (displ : BitVec 16)
  /-- F2 AOBLSS (R496). -/
  | aoblss (limit : Spec) (idx : Spec) (displ : BitVec 8)
  /-- F3 AOBLEQ (R497). -/
  | aobleq (limit : Spec) (idx : Spec) (displ : BitVec 8)
  /-- F4 SOBGEQ (R498). -/
  | sobgeq (idx : Spec) (displ : BitVec 8)
  /-- F5 SOBGTR (R499). -/
  | sobgtr (idx : Spec) (displ : BitVec 8)
  /-- F6 CVTLB (R395). -/
  | cvtlb (src : Spec) (dst : Spec)
  /-- F7 CVTLW (R396). -/
  | cvtlw (src : Spec) (dst : Spec)
  /-- F8 ASHP (R702). -/
  | ashp (cnt : Spec) (srclen : Spec) (srcaddr : Spec) (round : Spec) (dstlen : Spec) (dstaddr : Spec)
  /-- F9 CVTLP (R696). -/
  | cvtlp (src : Spec) (dstlen : Spec) (dstaddr : Spec)
  /-- FA CALLG (R505). -/
  | callg (arglist : Spec) (dst : Spec)
  /-- FB CALLS (R506). -/
  | calls (numarg : Spec) (dst : Spec)
  /-- 00 HALT (R332). -/
  | halt
  /-- 01 NOP (R509). -/
  | nop
  /-- 02 REI (R500). -/
  | rei
  /-- 03 BPT (R508). -/
  | bpt
  /-- 04 RET (R507). -/
  | ret
  /-- 05 RSB (R490). -/
  | rsb
  /-- 06 LDPCTX (R320). -/
  | ldpctx
  /-- 07 SVPCTX (R321). -/
  | svpctx
  /-- 57 RESERVED_57 (R263). -/
  | reserved57
  /-- 59 RESERVED_59 (R263). -/
  | reserved59
  /-- 5A RESERVED_5A (R263). -/
  | reserved5a
  /-- 5B RESERVED_5B (R263). -/
  | reserved5b
  /-- 5C RESERVED_5C (R263). -/
  | reserved5c
  /-- 5D RESERVED_5D (R263). -/
  | reserved5d
  /-- 5E RESERVED_5E (R263). -/
  | reserved5e
  /-- 5F RESERVED_5F (R263). -/
  | reserved5f
  /-- 77 RESERVED_77 (R263). -/
  | reserved77
  /-- FC XFC (R329). -/
  | xfc
  /-- FD ESCD (R263). -/
  | escd
  /-- FE ESCE (R263). -/
  | esce
  /-- FF ESCF (R263). -/
  | escf
  deriving DecidableEq, Repr

end Sys2Proof
end

