-- ==== Sys2Proof/Machine/OpTable.lean ====
section
/-! DEFINITION. The opcode map: for every one-byte opcode its operands' kinds and its instruction, and back
(30_encoding.md R240, R262, R263, R269; spec/opcode_table.json, source_fields.operands). -/
namespace Sys2Proof

/-- Notation `.ab` of R16. -/
abbrev Kind.ab : Kind := ⟨.address, .b⟩
/-- Notation `.al` of R16. -/
abbrev Kind.al : Kind := ⟨.address, .l⟩
/-- Notation `.aq` of R16. -/
abbrev Kind.aq : Kind := ⟨.address, .q⟩
/-- Notation `.aw` of R16. -/
abbrev Kind.aw : Kind := ⟨.address, .w⟩
/-- Notation `.bb` of R16. -/
abbrev Kind.bb : Kind := ⟨.branch, .b⟩
/-- Notation `.bw` of R16. -/
abbrev Kind.bw : Kind := ⟨.branch, .w⟩
/-- Notation `.mb` of R16. -/
abbrev Kind.mb : Kind := ⟨.modify, .b⟩
/-- Notation `.md` of R16. -/
abbrev Kind.md : Kind := ⟨.modify, .d⟩
/-- Notation `.mf` of R16. -/
abbrev Kind.mf : Kind := ⟨.modify, .f⟩
/-- Notation `.ml` of R16. -/
abbrev Kind.ml : Kind := ⟨.modify, .l⟩
/-- Notation `.mw` of R16. -/
abbrev Kind.mw : Kind := ⟨.modify, .w⟩
/-- Notation `.rb` of R16. -/
abbrev Kind.rb : Kind := ⟨.read, .b⟩
/-- Notation `.rd` of R16. -/
abbrev Kind.rd : Kind := ⟨.read, .d⟩
/-- Notation `.rf` of R16. -/
abbrev Kind.rf : Kind := ⟨.read, .f⟩
/-- Notation `.rl` of R16. -/
abbrev Kind.rl : Kind := ⟨.read, .l⟩
/-- Notation `.rq` of R16. -/
abbrev Kind.rq : Kind := ⟨.read, .q⟩
/-- Notation `.rw` of R16. -/
abbrev Kind.rw : Kind := ⟨.read, .w⟩
/-- Notation `.vb` of R16. -/
abbrev Kind.vb : Kind := ⟨.field, .b⟩
/-- Notation `.wb` of R16. -/
abbrev Kind.wb : Kind := ⟨.write, .b⟩
/-- Notation `.wd` of R16. -/
abbrev Kind.wd : Kind := ⟨.write, .d⟩
/-- Notation `.wf` of R16. -/
abbrev Kind.wf : Kind := ⟨.write, .f⟩
/-- Notation `.wl` of R16. -/
abbrev Kind.wl : Kind := ⟨.write, .l⟩
/-- Notation `.wq` of R16. -/
abbrev Kind.wq : Kind := ⟨.write, .q⟩
/-- Notation `.ww` of R16. -/
abbrev Kind.ww : Kind := ⟨.write, .w⟩

/-- One row of the opcode map. -/
structure OpRow where
  /-- Access and data type of each operand, in the order of the instruction stream. -/
  sig : List Kind
  /-- The instruction with these operands, when they have the row's shape. -/
  build : List Operand → Option Instr

/-- Operands of shape none: S a specifier, B and W a branch displacement. -/
def OpRow.build0 (f : Instr) : List Operand → Option Instr
  | [] => some f
  | _ => none
/-- Operands of shape B: S a specifier, B and W a branch displacement. -/
def OpRow.buildB (f : BitVec 8 → Instr) : List Operand → Option Instr
  | [.dispB x0] => some (f x0)
  | _ => none
/-- Operands of shape S: S a specifier, B and W a branch displacement. -/
def OpRow.buildS (f : Spec → Instr) : List Operand → Option Instr
  | [.spec x0] => some (f x0)
  | _ => none
/-- Operands of shape W: S a specifier, B and W a branch displacement. -/
def OpRow.buildW (f : BitVec 16 → Instr) : List Operand → Option Instr
  | [.dispW x0] => some (f x0)
  | _ => none
/-- Operands of shape SB: S a specifier, B and W a branch displacement. -/
def OpRow.buildSB (f : Spec → BitVec 8 → Instr) : List Operand → Option Instr
  | [.spec x0, .dispB x1] => some (f x0 x1)
  | _ => none
/-- Operands of shape SS: S a specifier, B and W a branch displacement. -/
def OpRow.buildSS (f : Spec → Spec → Instr) : List Operand → Option Instr
  | [.spec x0, .spec x1] => some (f x0 x1)
  | _ => none
/-- Operands of shape SSB: S a specifier, B and W a branch displacement. -/
def OpRow.buildSSB (f : Spec → Spec → BitVec 8 → Instr) : List Operand → Option Instr
  | [.spec x0, .spec x1, .dispB x2] => some (f x0 x1 x2)
  | _ => none
/-- Operands of shape SSS: S a specifier, B and W a branch displacement. -/
def OpRow.buildSSS (f : Spec → Spec → Spec → Instr) : List Operand → Option Instr
  | [.spec x0, .spec x1, .spec x2] => some (f x0 x1 x2)
  | _ => none
/-- Operands of shape SSSS: S a specifier, B and W a branch displacement. -/
def OpRow.buildSSSS (f : Spec → Spec → Spec → Spec → Instr) : List Operand → Option Instr
  | [.spec x0, .spec x1, .spec x2, .spec x3] => some (f x0 x1 x2 x3)
  | _ => none
/-- Operands of shape SSSW: S a specifier, B and W a branch displacement. -/
def OpRow.buildSSSW (f : Spec → Spec → Spec → BitVec 16 → Instr) : List Operand → Option Instr
  | [.spec x0, .spec x1, .spec x2, .dispW x3] => some (f x0 x1 x2 x3)
  | _ => none
/-- Operands of shape SSSSS: S a specifier, B and W a branch displacement. -/
def OpRow.buildSSSSS (f : Spec → Spec → Spec → Spec → Spec → Instr) : List Operand → Option Instr
  | [.spec x0, .spec x1, .spec x2, .spec x3, .spec x4] => some (f x0 x1 x2 x3 x4)
  | _ => none
/-- Operands of shape SSSSSS: S a specifier, B and W a branch displacement. -/
def OpRow.buildSSSSSS (f : Spec → Spec → Spec → Spec → Spec → Spec → Instr) : List Operand → Option Instr
  | [.spec x0, .spec x1, .spec x2, .spec x3, .spec x4, .spec x5] => some (f x0 x1 x2 x3 x4 x5)
  | _ => none

/-- Opcodes 00 to 0F. -/
def opRows0 : List OpRow := [
  ⟨[], OpRow.build0 .halt⟩,
  ⟨[], OpRow.build0 .nop⟩,
  ⟨[], OpRow.build0 .rei⟩,
  ⟨[], OpRow.build0 .bpt⟩,
  ⟨[], OpRow.build0 .ret⟩,
  ⟨[], OpRow.build0 .rsb⟩,
  ⟨[], OpRow.build0 .ldpctx⟩,
  ⟨[], OpRow.build0 .svpctx⟩,
  ⟨[.rw, .ab, .rw, .ab], OpRow.buildSSSS .cvtps⟩,
  ⟨[.rw, .ab, .rw, .ab], OpRow.buildSSSS .cvtsp⟩,
  ⟨[.rl, .rl, .rl, .rl, .rl, .wl], OpRow.buildSSSSSS .index⟩,
  ⟨[.ab, .rl, .rw, .ab], OpRow.buildSSSS .crc⟩,
  ⟨[.rb, .rw, .ab], OpRow.buildSSS .prober⟩,
  ⟨[.rb, .rw, .ab], OpRow.buildSSS .probew⟩,
  ⟨[.ab, .ab], OpRow.buildSS .insque⟩,
  ⟨[.ab, .wl], OpRow.buildSS .remque⟩]

/-- Opcodes 10 to 1F. -/
def opRows1 : List OpRow := [
  ⟨[.bb], OpRow.buildB .bsbb⟩,
  ⟨[.bb], OpRow.buildB .brb⟩,
  ⟨[.bb], OpRow.buildB .bneq⟩,
  ⟨[.bb], OpRow.buildB .beql⟩,
  ⟨[.bb], OpRow.buildB .bgtr⟩,
  ⟨[.bb], OpRow.buildB .bleq⟩,
  ⟨[.ab], OpRow.buildS .jsb⟩,
  ⟨[.ab], OpRow.buildS .jmp⟩,
  ⟨[.bb], OpRow.buildB .bgeq⟩,
  ⟨[.bb], OpRow.buildB .blss⟩,
  ⟨[.bb], OpRow.buildB .bgtru⟩,
  ⟨[.bb], OpRow.buildB .blequ⟩,
  ⟨[.bb], OpRow.buildB .bvc⟩,
  ⟨[.bb], OpRow.buildB .bvs⟩,
  ⟨[.bb], OpRow.buildB .bcc⟩,
  ⟨[.bb], OpRow.buildB .bcs⟩]

/-- Opcodes 20 to 2F. -/
def opRows2 : List OpRow := [
  ⟨[.rw, .ab, .rw, .ab], OpRow.buildSSSS .addp4⟩,
  ⟨[.rw, .ab, .rw, .ab, .rw, .ab], OpRow.buildSSSSSS .addp6⟩,
  ⟨[.rw, .ab, .rw, .ab], OpRow.buildSSSS .subp4⟩,
  ⟨[.rw, .ab, .rw, .ab, .rw, .ab], OpRow.buildSSSSSS .subp6⟩,
  ⟨[.rw, .ab, .ab, .rw, .ab], OpRow.buildSSSSS .cvtpt⟩,
  ⟨[.rw, .ab, .rw, .ab, .rw, .ab], OpRow.buildSSSSSS .mulp⟩,
  ⟨[.rw, .ab, .ab, .rw, .ab], OpRow.buildSSSSS .cvttp⟩,
  ⟨[.rw, .ab, .rw, .ab, .rw, .ab], OpRow.buildSSSSSS .divp⟩,
  ⟨[.rw, .ab, .ab], OpRow.buildSSS .movc3⟩,
  ⟨[.rw, .ab, .ab], OpRow.buildSSS .cmpc3⟩,
  ⟨[.rw, .ab, .ab, .rb], OpRow.buildSSSS .scanc⟩,
  ⟨[.rw, .ab, .ab, .rb], OpRow.buildSSSS .spanc⟩,
  ⟨[.rw, .ab, .rb, .rw, .ab], OpRow.buildSSSSS .movc5⟩,
  ⟨[.rw, .ab, .rb, .rw, .ab], OpRow.buildSSSSS .cmpc5⟩,
  ⟨[.rw, .ab, .rb, .ab, .rw, .ab], OpRow.buildSSSSSS .movtc⟩,
  ⟨[.rw, .ab, .rb, .ab, .rw, .ab], OpRow.buildSSSSSS .movtuc⟩]

/-- Opcodes 30 to 3F. -/
def opRows3 : List OpRow := [
  ⟨[.bw], OpRow.buildW .bsbw⟩,
  ⟨[.bw], OpRow.buildW .brw⟩,
  ⟨[.rw, .wl], OpRow.buildSS .cvtwl⟩,
  ⟨[.rw, .wb], OpRow.buildSS .cvtwb⟩,
  ⟨[.rw, .ab, .ab], OpRow.buildSSS .movp⟩,
  ⟨[.rw, .ab, .ab], OpRow.buildSSS .cmpp3⟩,
  ⟨[.rw, .ab, .wl], OpRow.buildSSS .cvtpl⟩,
  ⟨[.rw, .ab, .rw, .ab], OpRow.buildSSSS .cmpp4⟩,
  ⟨[.rw, .ab, .ab, .ab], OpRow.buildSSSS .editpc⟩,
  ⟨[.rw, .ab, .rw, .ab], OpRow.buildSSSS .matchc⟩,
  ⟨[.rb, .rw, .ab], OpRow.buildSSS .locc⟩,
  ⟨[.rb, .rw, .ab], OpRow.buildSSS .skpc⟩,
  ⟨[.rw, .wl], OpRow.buildSS .movzwl⟩,
  ⟨[.rw, .rw, .mw, .bw], OpRow.buildSSSW .acbw⟩,
  ⟨[.aw, .wl], OpRow.buildSS .movaw⟩,
  ⟨[.aw], OpRow.buildS .pushaw⟩]

/-- Opcodes 40 to 4F. -/
def opRows4 : List OpRow := [
  ⟨[.rf, .mf], OpRow.buildSS .addf2⟩,
  ⟨[.rf, .rf, .wf], OpRow.buildSSS .addf3⟩,
  ⟨[.rf, .mf], OpRow.buildSS .subf2⟩,
  ⟨[.rf, .rf, .wf], OpRow.buildSSS .subf3⟩,
  ⟨[.rf, .mf], OpRow.buildSS .mulf2⟩,
  ⟨[.rf, .rf, .wf], OpRow.buildSSS .mulf3⟩,
  ⟨[.rf, .mf], OpRow.buildSS .divf2⟩,
  ⟨[.rf, .rf, .wf], OpRow.buildSSS .divf3⟩,
  ⟨[.rf, .wb], OpRow.buildSS .cvtfb⟩,
  ⟨[.rf, .ww], OpRow.buildSS .cvtfw⟩,
  ⟨[.rf, .wl], OpRow.buildSS .cvtfl⟩,
  ⟨[.rf, .wl], OpRow.buildSS .cvtrfl⟩,
  ⟨[.rb, .wf], OpRow.buildSS .cvtbf⟩,
  ⟨[.rw, .wf], OpRow.buildSS .cvtwf⟩,
  ⟨[.rl, .wf], OpRow.buildSS .cvtlf⟩,
  ⟨[.rf, .rf, .mf, .bw], OpRow.buildSSSW .acbf⟩]

/-- Opcodes 50 to 5F. -/
def opRows5 : List OpRow := [
  ⟨[.rf, .wf], OpRow.buildSS .movf⟩,
  ⟨[.rf, .rf], OpRow.buildSS .cmpf⟩,
  ⟨[.rf, .wf], OpRow.buildSS .mnegf⟩,
  ⟨[.rf], OpRow.buildS .tstf⟩,
  ⟨[.rf, .rb, .rf, .wl, .wf], OpRow.buildSSSSS .emodf⟩,
  ⟨[.rf, .rw, .ab], OpRow.buildSSS .polyf⟩,
  ⟨[.rf, .wd], OpRow.buildSS .cvtfd⟩,
  ⟨[], OpRow.build0 .reserved57⟩,
  ⟨[.rw, .mw], OpRow.buildSS .adawi⟩,
  ⟨[], OpRow.build0 .reserved59⟩,
  ⟨[], OpRow.build0 .reserved5a⟩,
  ⟨[], OpRow.build0 .reserved5b⟩,
  ⟨[], OpRow.build0 .reserved5c⟩,
  ⟨[], OpRow.build0 .reserved5d⟩,
  ⟨[], OpRow.build0 .reserved5e⟩,
  ⟨[], OpRow.build0 .reserved5f⟩]

/-- Opcodes 60 to 6F. -/
def opRows6 : List OpRow := [
  ⟨[.rd, .md], OpRow.buildSS .addd2⟩,
  ⟨[.rd, .rd, .wd], OpRow.buildSSS .addd3⟩,
  ⟨[.rd, .md], OpRow.buildSS .subd2⟩,
  ⟨[.rd, .rd, .wd], OpRow.buildSSS .subd3⟩,
  ⟨[.rd, .md], OpRow.buildSS .muld2⟩,
  ⟨[.rd, .rd, .wd], OpRow.buildSSS .muld3⟩,
  ⟨[.rd, .md], OpRow.buildSS .divd2⟩,
  ⟨[.rd, .rd, .wd], OpRow.buildSSS .divd3⟩,
  ⟨[.rd, .wb], OpRow.buildSS .cvtdb⟩,
  ⟨[.rd, .ww], OpRow.buildSS .cvtdw⟩,
  ⟨[.rd, .wl], OpRow.buildSS .cvtdl⟩,
  ⟨[.rd, .wl], OpRow.buildSS .cvtrdl⟩,
  ⟨[.rb, .wd], OpRow.buildSS .cvtbd⟩,
  ⟨[.rw, .wd], OpRow.buildSS .cvtwd⟩,
  ⟨[.rl, .wd], OpRow.buildSS .cvtld⟩,
  ⟨[.rd, .rd, .md, .bw], OpRow.buildSSSW .acbd⟩]

/-- Opcodes 70 to 7F. -/
def opRows7 : List OpRow := [
  ⟨[.rd, .wd], OpRow.buildSS .movd⟩,
  ⟨[.rd, .rd], OpRow.buildSS .cmpd⟩,
  ⟨[.rd, .wd], OpRow.buildSS .mnegd⟩,
  ⟨[.rd], OpRow.buildS .tstd⟩,
  ⟨[.rd, .rb, .rd, .wl, .wd], OpRow.buildSSSSS .emodd⟩,
  ⟨[.rd, .rw, .ab], OpRow.buildSSS .polyd⟩,
  ⟨[.rd, .wf], OpRow.buildSS .cvtdf⟩,
  ⟨[], OpRow.build0 .reserved77⟩,
  ⟨[.rb, .rl, .wl], OpRow.buildSSS .ashl⟩,
  ⟨[.rb, .rq, .wq], OpRow.buildSSS .ashq⟩,
  ⟨[.rl, .rl, .rl, .wq], OpRow.buildSSSS .emul⟩,
  ⟨[.rl, .rq, .wl, .wl], OpRow.buildSSSS .ediv⟩,
  ⟨[.wq], OpRow.buildS .clrq⟩,
  ⟨[.rq, .wq], OpRow.buildSS .movq⟩,
  ⟨[.aq, .wl], OpRow.buildSS .movaq⟩,
  ⟨[.aq], OpRow.buildS .pushaq⟩]

/-- Opcodes 80 to 8F. -/
def opRows8 : List OpRow := [
  ⟨[.rb, .mb], OpRow.buildSS .addb2⟩,
  ⟨[.rb, .rb, .wb], OpRow.buildSSS .addb3⟩,
  ⟨[.rb, .mb], OpRow.buildSS .subb2⟩,
  ⟨[.rb, .rb, .wb], OpRow.buildSSS .subb3⟩,
  ⟨[.rb, .mb], OpRow.buildSS .mulb2⟩,
  ⟨[.rb, .rb, .wb], OpRow.buildSSS .mulb3⟩,
  ⟨[.rb, .mb], OpRow.buildSS .divb2⟩,
  ⟨[.rb, .rb, .wb], OpRow.buildSSS .divb3⟩,
  ⟨[.rb, .mb], OpRow.buildSS .bisb2⟩,
  ⟨[.rb, .rb, .wb], OpRow.buildSSS .bisb3⟩,
  ⟨[.rb, .mb], OpRow.buildSS .bicb2⟩,
  ⟨[.rb, .rb, .wb], OpRow.buildSSS .bicb3⟩,
  ⟨[.rb, .mb], OpRow.buildSS .xorb2⟩,
  ⟨[.rb, .rb, .wb], OpRow.buildSSS .xorb3⟩,
  ⟨[.rb, .wb], OpRow.buildSS .mnegb⟩,
  ⟨[.rb, .rb, .rb], OpRow.buildSSS .caseb⟩]

/-- Opcodes 90 to 9F. -/
def opRows9 : List OpRow := [
  ⟨[.rb, .wb], OpRow.buildSS .movb⟩,
  ⟨[.rb, .rb], OpRow.buildSS .cmpb⟩,
  ⟨[.rb, .wb], OpRow.buildSS .mcomb⟩,
  ⟨[.rb, .rb], OpRow.buildSS .bitb⟩,
  ⟨[.wb], OpRow.buildS .clrb⟩,
  ⟨[.rb], OpRow.buildS .tstb⟩,
  ⟨[.mb], OpRow.buildS .incb⟩,
  ⟨[.mb], OpRow.buildS .decb⟩,
  ⟨[.rb, .wl], OpRow.buildSS .cvtbl⟩,
  ⟨[.rb, .ww], OpRow.buildSS .cvtbw⟩,
  ⟨[.rb, .wl], OpRow.buildSS .movzbl⟩,
  ⟨[.rb, .ww], OpRow.buildSS .movzbw⟩,
  ⟨[.rb, .rl, .wl], OpRow.buildSSS .rotl⟩,
  ⟨[.rb, .rb, .mb, .bw], OpRow.buildSSSW .acbb⟩,
  ⟨[.ab, .wl], OpRow.buildSS .movab⟩,
  ⟨[.ab], OpRow.buildS .pushab⟩]

/-- Opcodes A0 to AF. -/
def opRowsA : List OpRow := [
  ⟨[.rw, .mw], OpRow.buildSS .addw2⟩,
  ⟨[.rw, .rw, .ww], OpRow.buildSSS .addw3⟩,
  ⟨[.rw, .mw], OpRow.buildSS .subw2⟩,
  ⟨[.rw, .rw, .ww], OpRow.buildSSS .subw3⟩,
  ⟨[.rw, .mw], OpRow.buildSS .mulw2⟩,
  ⟨[.rw, .rw, .ww], OpRow.buildSSS .mulw3⟩,
  ⟨[.rw, .mw], OpRow.buildSS .divw2⟩,
  ⟨[.rw, .rw, .ww], OpRow.buildSSS .divw3⟩,
  ⟨[.rw, .mw], OpRow.buildSS .bisw2⟩,
  ⟨[.rw, .rw, .ww], OpRow.buildSSS .bisw3⟩,
  ⟨[.rw, .mw], OpRow.buildSS .bicw2⟩,
  ⟨[.rw, .rw, .ww], OpRow.buildSSS .bicw3⟩,
  ⟨[.rw, .mw], OpRow.buildSS .xorw2⟩,
  ⟨[.rw, .rw, .ww], OpRow.buildSSS .xorw3⟩,
  ⟨[.rw, .ww], OpRow.buildSS .mnegw⟩,
  ⟨[.rw, .rw, .rw], OpRow.buildSSS .casew⟩]

/-- Opcodes B0 to BF. -/
def opRowsB : List OpRow := [
  ⟨[.rw, .ww], OpRow.buildSS .movw⟩,
  ⟨[.rw, .rw], OpRow.buildSS .cmpw⟩,
  ⟨[.rw, .ww], OpRow.buildSS .mcomw⟩,
  ⟨[.rw, .rw], OpRow.buildSS .bitw⟩,
  ⟨[.ww], OpRow.buildS .clrw⟩,
  ⟨[.rw], OpRow.buildS .tstw⟩,
  ⟨[.mw], OpRow.buildS .incw⟩,
  ⟨[.mw], OpRow.buildS .decw⟩,
  ⟨[.rw], OpRow.buildS .bispsw⟩,
  ⟨[.rw], OpRow.buildS .bicpsw⟩,
  ⟨[.rw], OpRow.buildS .popr⟩,
  ⟨[.rw], OpRow.buildS .pushr⟩,
  ⟨[.rw], OpRow.buildS .chmk⟩,
  ⟨[.rw], OpRow.buildS .chme⟩,
  ⟨[.rw], OpRow.buildS .chms⟩,
  ⟨[.rw], OpRow.buildS .chmu⟩]

/-- Opcodes C0 to CF. -/
def opRowsC : List OpRow := [
  ⟨[.rl, .ml], OpRow.buildSS .addl2⟩,
  ⟨[.rl, .rl, .wl], OpRow.buildSSS .addl3⟩,
  ⟨[.rl, .ml], OpRow.buildSS .subl2⟩,
  ⟨[.rl, .rl, .wl], OpRow.buildSSS .subl3⟩,
  ⟨[.rl, .ml], OpRow.buildSS .mull2⟩,
  ⟨[.rl, .rl, .wl], OpRow.buildSSS .mull3⟩,
  ⟨[.rl, .ml], OpRow.buildSS .divl2⟩,
  ⟨[.rl, .rl, .wl], OpRow.buildSSS .divl3⟩,
  ⟨[.rl, .ml], OpRow.buildSS .bisl2⟩,
  ⟨[.rl, .rl, .wl], OpRow.buildSSS .bisl3⟩,
  ⟨[.rl, .ml], OpRow.buildSS .bicl2⟩,
  ⟨[.rl, .rl, .wl], OpRow.buildSSS .bicl3⟩,
  ⟨[.rl, .ml], OpRow.buildSS .xorl2⟩,
  ⟨[.rl, .rl, .wl], OpRow.buildSSS .xorl3⟩,
  ⟨[.rl, .wl], OpRow.buildSS .mnegl⟩,
  ⟨[.rl, .rl, .rl], OpRow.buildSSS .casel⟩]

/-- Opcodes D0 to DF. -/
def opRowsD : List OpRow := [
  ⟨[.rl, .wl], OpRow.buildSS .movl⟩,
  ⟨[.rl, .rl], OpRow.buildSS .cmpl⟩,
  ⟨[.rl, .wl], OpRow.buildSS .mcoml⟩,
  ⟨[.rl, .rl], OpRow.buildSS .bitl⟩,
  ⟨[.wl], OpRow.buildS .clrl⟩,
  ⟨[.rl], OpRow.buildS .tstl⟩,
  ⟨[.ml], OpRow.buildS .incl⟩,
  ⟨[.ml], OpRow.buildS .decl⟩,
  ⟨[.rl, .ml], OpRow.buildSS .adwc⟩,
  ⟨[.rl, .ml], OpRow.buildSS .sbwc⟩,
  ⟨[.rl, .rl], OpRow.buildSS .mtpr⟩,
  ⟨[.rl, .wl], OpRow.buildSS .mfpr⟩,
  ⟨[.wl], OpRow.buildS .movpsl⟩,
  ⟨[.rl], OpRow.buildS .pushl⟩,
  ⟨[.al, .wl], OpRow.buildSS .moval⟩,
  ⟨[.al], OpRow.buildS .pushal⟩]

/-- Opcodes E0 to EF. -/
def opRowsE : List OpRow := [
  ⟨[.rl, .vb, .bb], OpRow.buildSSB .bbs⟩,
  ⟨[.rl, .vb, .bb], OpRow.buildSSB .bbc⟩,
  ⟨[.rl, .vb, .bb], OpRow.buildSSB .bbss⟩,
  ⟨[.rl, .vb, .bb], OpRow.buildSSB .bbcs⟩,
  ⟨[.rl, .vb, .bb], OpRow.buildSSB .bbsc⟩,
  ⟨[.rl, .vb, .bb], OpRow.buildSSB .bbcc⟩,
  ⟨[.rl, .vb, .bb], OpRow.buildSSB .bbssi⟩,
  ⟨[.rl, .vb, .bb], OpRow.buildSSB .bbcci⟩,
  ⟨[.rl, .bb], OpRow.buildSB .blbs⟩,
  ⟨[.rl, .bb], OpRow.buildSB .blbc⟩,
  ⟨[.rl, .rb, .vb, .wl], OpRow.buildSSSS .ffs⟩,
  ⟨[.rl, .rb, .vb, .wl], OpRow.buildSSSS .ffc⟩,
  ⟨[.rl, .rb, .vb, .rl], OpRow.buildSSSS .cmpv⟩,
  ⟨[.rl, .rb, .vb, .rl], OpRow.buildSSSS .cmpzv⟩,
  ⟨[.rl, .rb, .vb, .wl], OpRow.buildSSSS .extv⟩,
  ⟨[.rl, .rb, .vb, .wl], OpRow.buildSSSS .extzv⟩]

/-- Opcodes F0 to FF. -/
def opRowsF : List OpRow := [
  ⟨[.rl, .rl, .rb, .vb], OpRow.buildSSSS .insv⟩,
  ⟨[.rl, .rl, .ml, .bw], OpRow.buildSSSW .acbl⟩,
  ⟨[.rl, .ml, .bb], OpRow.buildSSB .aoblss⟩,
  ⟨[.rl, .ml, .bb], OpRow.buildSSB .aobleq⟩,
  ⟨[.ml, .bb], OpRow.buildSB .sobgeq⟩,
  ⟨[.ml, .bb], OpRow.buildSB .sobgtr⟩,
  ⟨[.rl, .wb], OpRow.buildSS .cvtlb⟩,
  ⟨[.rl, .ww], OpRow.buildSS .cvtlw⟩,
  ⟨[.rb, .rw, .ab, .rb, .rw, .ab], OpRow.buildSSSSSS .ashp⟩,
  ⟨[.rl, .rw, .ab], OpRow.buildSSS .cvtlp⟩,
  ⟨[.ab, .ab], OpRow.buildSS .callg⟩,
  ⟨[.rl, .ab], OpRow.buildSS .calls⟩,
  ⟨[], OpRow.build0 .xfc⟩,
  ⟨[], OpRow.build0 .escd⟩,
  ⟨[], OpRow.build0 .esce⟩,
  ⟨[], OpRow.build0 .escf⟩]

/-- The opcode map, sixteen rows of sixteen. -/
def opMap : List (List OpRow) :=
  [opRows0, opRows1, opRows2, opRows3, opRows4, opRows5, opRows6, opRows7, opRows8, opRows9, opRowsA, opRowsB, opRowsC, opRowsD, opRowsE, opRowsF]

/-- The row of an opcode; every byte value has one (R262, R263). -/
def opRow (op : Byte) : OpRow :=
  ((opMap.getD (op.toNat / 16) []).getD (op.toNat % 16) ⟨[], fun _ => none⟩)

/-- The opcode of an instruction. -/
def Instr.opcode : Instr → Byte
  | .halt => 0x00
  | .nop => 0x01
  | .rei => 0x02
  | .bpt => 0x03
  | .ret => 0x04
  | .rsb => 0x05
  | .ldpctx => 0x06
  | .svpctx => 0x07
  | .cvtps _ _ _ _ => 0x08
  | .cvtsp _ _ _ _ => 0x09
  | .index _ _ _ _ _ _ => 0x0A
  | .crc _ _ _ _ => 0x0B
  | .prober _ _ _ => 0x0C
  | .probew _ _ _ => 0x0D
  | .insque _ _ => 0x0E
  | .remque _ _ => 0x0F
  | .bsbb _ => 0x10
  | .brb _ => 0x11
  | .bneq _ => 0x12
  | .beql _ => 0x13
  | .bgtr _ => 0x14
  | .bleq _ => 0x15
  | .jsb _ => 0x16
  | .jmp _ => 0x17
  | .bgeq _ => 0x18
  | .blss _ => 0x19
  | .bgtru _ => 0x1A
  | .blequ _ => 0x1B
  | .bvc _ => 0x1C
  | .bvs _ => 0x1D
  | .bcc _ => 0x1E
  | .bcs _ => 0x1F
  | .addp4 _ _ _ _ => 0x20
  | .addp6 _ _ _ _ _ _ => 0x21
  | .subp4 _ _ _ _ => 0x22
  | .subp6 _ _ _ _ _ _ => 0x23
  | .cvtpt _ _ _ _ _ => 0x24
  | .mulp _ _ _ _ _ _ => 0x25
  | .cvttp _ _ _ _ _ => 0x26
  | .divp _ _ _ _ _ _ => 0x27
  | .movc3 _ _ _ => 0x28
  | .cmpc3 _ _ _ => 0x29
  | .scanc _ _ _ _ => 0x2A
  | .spanc _ _ _ _ => 0x2B
  | .movc5 _ _ _ _ _ => 0x2C
  | .cmpc5 _ _ _ _ _ => 0x2D
  | .movtc _ _ _ _ _ _ => 0x2E
  | .movtuc _ _ _ _ _ _ => 0x2F
  | .bsbw _ => 0x30
  | .brw _ => 0x31
  | .cvtwl _ _ => 0x32
  | .cvtwb _ _ => 0x33
  | .movp _ _ _ => 0x34
  | .cmpp3 _ _ _ => 0x35
  | .cvtpl _ _ _ => 0x36
  | .cmpp4 _ _ _ _ => 0x37
  | .editpc _ _ _ _ => 0x38
  | .matchc _ _ _ _ => 0x39
  | .locc _ _ _ => 0x3A
  | .skpc _ _ _ => 0x3B
  | .movzwl _ _ => 0x3C
  | .acbw _ _ _ _ => 0x3D
  | .movaw _ _ => 0x3E
  | .pushaw _ => 0x3F
  | .addf2 _ _ => 0x40
  | .addf3 _ _ _ => 0x41
  | .subf2 _ _ => 0x42
  | .subf3 _ _ _ => 0x43
  | .mulf2 _ _ => 0x44
  | .mulf3 _ _ _ => 0x45
  | .divf2 _ _ => 0x46
  | .divf3 _ _ _ => 0x47
  | .cvtfb _ _ => 0x48
  | .cvtfw _ _ => 0x49
  | .cvtfl _ _ => 0x4A
  | .cvtrfl _ _ => 0x4B
  | .cvtbf _ _ => 0x4C
  | .cvtwf _ _ => 0x4D
  | .cvtlf _ _ => 0x4E
  | .acbf _ _ _ _ => 0x4F
  | .movf _ _ => 0x50
  | .cmpf _ _ => 0x51
  | .mnegf _ _ => 0x52
  | .tstf _ => 0x53
  | .emodf _ _ _ _ _ => 0x54
  | .polyf _ _ _ => 0x55
  | .cvtfd _ _ => 0x56
  | .reserved57 => 0x57
  | .adawi _ _ => 0x58
  | .reserved59 => 0x59
  | .reserved5a => 0x5A
  | .reserved5b => 0x5B
  | .reserved5c => 0x5C
  | .reserved5d => 0x5D
  | .reserved5e => 0x5E
  | .reserved5f => 0x5F
  | .addd2 _ _ => 0x60
  | .addd3 _ _ _ => 0x61
  | .subd2 _ _ => 0x62
  | .subd3 _ _ _ => 0x63
  | .muld2 _ _ => 0x64
  | .muld3 _ _ _ => 0x65
  | .divd2 _ _ => 0x66
  | .divd3 _ _ _ => 0x67
  | .cvtdb _ _ => 0x68
  | .cvtdw _ _ => 0x69
  | .cvtdl _ _ => 0x6A
  | .cvtrdl _ _ => 0x6B
  | .cvtbd _ _ => 0x6C
  | .cvtwd _ _ => 0x6D
  | .cvtld _ _ => 0x6E
  | .acbd _ _ _ _ => 0x6F
  | .movd _ _ => 0x70
  | .cmpd _ _ => 0x71
  | .mnegd _ _ => 0x72
  | .tstd _ => 0x73
  | .emodd _ _ _ _ _ => 0x74
  | .polyd _ _ _ => 0x75
  | .cvtdf _ _ => 0x76
  | .reserved77 => 0x77
  | .ashl _ _ _ => 0x78
  | .ashq _ _ _ => 0x79
  | .emul _ _ _ _ => 0x7A
  | .ediv _ _ _ _ => 0x7B
  | .clrq _ => 0x7C
  | .movq _ _ => 0x7D
  | .movaq _ _ => 0x7E
  | .pushaq _ => 0x7F
  | .addb2 _ _ => 0x80
  | .addb3 _ _ _ => 0x81
  | .subb2 _ _ => 0x82
  | .subb3 _ _ _ => 0x83
  | .mulb2 _ _ => 0x84
  | .mulb3 _ _ _ => 0x85
  | .divb2 _ _ => 0x86
  | .divb3 _ _ _ => 0x87
  | .bisb2 _ _ => 0x88
  | .bisb3 _ _ _ => 0x89
  | .bicb2 _ _ => 0x8A
  | .bicb3 _ _ _ => 0x8B
  | .xorb2 _ _ => 0x8C
  | .xorb3 _ _ _ => 0x8D
  | .mnegb _ _ => 0x8E
  | .caseb _ _ _ => 0x8F
  | .movb _ _ => 0x90
  | .cmpb _ _ => 0x91
  | .mcomb _ _ => 0x92
  | .bitb _ _ => 0x93
  | .clrb _ => 0x94
  | .tstb _ => 0x95
  | .incb _ => 0x96
  | .decb _ => 0x97
  | .cvtbl _ _ => 0x98
  | .cvtbw _ _ => 0x99
  | .movzbl _ _ => 0x9A
  | .movzbw _ _ => 0x9B
  | .rotl _ _ _ => 0x9C
  | .acbb _ _ _ _ => 0x9D
  | .movab _ _ => 0x9E
  | .pushab _ => 0x9F
  | .addw2 _ _ => 0xA0
  | .addw3 _ _ _ => 0xA1
  | .subw2 _ _ => 0xA2
  | .subw3 _ _ _ => 0xA3
  | .mulw2 _ _ => 0xA4
  | .mulw3 _ _ _ => 0xA5
  | .divw2 _ _ => 0xA6
  | .divw3 _ _ _ => 0xA7
  | .bisw2 _ _ => 0xA8
  | .bisw3 _ _ _ => 0xA9
  | .bicw2 _ _ => 0xAA
  | .bicw3 _ _ _ => 0xAB
  | .xorw2 _ _ => 0xAC
  | .xorw3 _ _ _ => 0xAD
  | .mnegw _ _ => 0xAE
  | .casew _ _ _ => 0xAF
  | .movw _ _ => 0xB0
  | .cmpw _ _ => 0xB1
  | .mcomw _ _ => 0xB2
  | .bitw _ _ => 0xB3
  | .clrw _ => 0xB4
  | .tstw _ => 0xB5
  | .incw _ => 0xB6
  | .decw _ => 0xB7
  | .bispsw _ => 0xB8
  | .bicpsw _ => 0xB9
  | .popr _ => 0xBA
  | .pushr _ => 0xBB
  | .chmk _ => 0xBC
  | .chme _ => 0xBD
  | .chms _ => 0xBE
  | .chmu _ => 0xBF
  | .addl2 _ _ => 0xC0
  | .addl3 _ _ _ => 0xC1
  | .subl2 _ _ => 0xC2
  | .subl3 _ _ _ => 0xC3
  | .mull2 _ _ => 0xC4
  | .mull3 _ _ _ => 0xC5
  | .divl2 _ _ => 0xC6
  | .divl3 _ _ _ => 0xC7
  | .bisl2 _ _ => 0xC8
  | .bisl3 _ _ _ => 0xC9
  | .bicl2 _ _ => 0xCA
  | .bicl3 _ _ _ => 0xCB
  | .xorl2 _ _ => 0xCC
  | .xorl3 _ _ _ => 0xCD
  | .mnegl _ _ => 0xCE
  | .casel _ _ _ => 0xCF
  | .movl _ _ => 0xD0
  | .cmpl _ _ => 0xD1
  | .mcoml _ _ => 0xD2
  | .bitl _ _ => 0xD3
  | .clrl _ => 0xD4
  | .tstl _ => 0xD5
  | .incl _ => 0xD6
  | .decl _ => 0xD7
  | .adwc _ _ => 0xD8
  | .sbwc _ _ => 0xD9
  | .mtpr _ _ => 0xDA
  | .mfpr _ _ => 0xDB
  | .movpsl _ => 0xDC
  | .pushl _ => 0xDD
  | .moval _ _ => 0xDE
  | .pushal _ => 0xDF
  | .bbs _ _ _ => 0xE0
  | .bbc _ _ _ => 0xE1
  | .bbss _ _ _ => 0xE2
  | .bbcs _ _ _ => 0xE3
  | .bbsc _ _ _ => 0xE4
  | .bbcc _ _ _ => 0xE5
  | .bbssi _ _ _ => 0xE6
  | .bbcci _ _ _ => 0xE7
  | .blbs _ _ => 0xE8
  | .blbc _ _ => 0xE9
  | .ffs _ _ _ _ => 0xEA
  | .ffc _ _ _ _ => 0xEB
  | .cmpv _ _ _ _ => 0xEC
  | .cmpzv _ _ _ _ => 0xED
  | .extv _ _ _ _ => 0xEE
  | .extzv _ _ _ _ => 0xEF
  | .insv _ _ _ _ => 0xF0
  | .acbl _ _ _ _ => 0xF1
  | .aoblss _ _ _ => 0xF2
  | .aobleq _ _ _ => 0xF3
  | .sobgeq _ _ => 0xF4
  | .sobgtr _ _ => 0xF5
  | .cvtlb _ _ => 0xF6
  | .cvtlw _ _ => 0xF7
  | .ashp _ _ _ _ _ _ => 0xF8
  | .cvtlp _ _ _ => 0xF9
  | .callg _ _ => 0xFA
  | .calls _ _ => 0xFB
  | .xfc => 0xFC
  | .escd => 0xFD
  | .esce => 0xFE
  | .escf => 0xFF

/-- The operands of an instruction, in the order of the instruction stream. -/
def Instr.operands : Instr → List Operand
  | .halt => []
  | .nop => []
  | .rei => []
  | .bpt => []
  | .ret => []
  | .rsb => []
  | .ldpctx => []
  | .svpctx => []
  | .cvtps srclen srcaddr dstlen dstaddr => [.spec srclen, .spec srcaddr, .spec dstlen, .spec dstaddr]
  | .cvtsp srclen srcaddr dstlen dstaddr => [.spec srclen, .spec srcaddr, .spec dstlen, .spec dstaddr]
  | .index subscript low high size indexin indexout => [.spec subscript, .spec low, .spec high, .spec size, .spec indexin, .spec indexout]
  | .crc tbl inicrc strlen stream => [.spec tbl, .spec inicrc, .spec strlen, .spec stream]
  | .prober mode len base => [.spec mode, .spec len, .spec base]
  | .probew mode len base => [.spec mode, .spec len, .spec base]
  | .insque entry pred => [.spec entry, .spec pred]
  | .remque entry addr => [.spec entry, .spec addr]
  | .bsbb displ => [.dispB displ]
  | .brb displ => [.dispB displ]
  | .bneq displ => [.dispB displ]
  | .beql displ => [.dispB displ]
  | .bgtr displ => [.dispB displ]
  | .bleq displ => [.dispB displ]
  | .jsb dst => [.spec dst]
  | .jmp dst => [.spec dst]
  | .bgeq displ => [.dispB displ]
  | .blss displ => [.dispB displ]
  | .bgtru displ => [.dispB displ]
  | .blequ displ => [.dispB displ]
  | .bvc displ => [.dispB displ]
  | .bvs displ => [.dispB displ]
  | .bcc displ => [.dispB displ]
  | .bcs displ => [.dispB displ]
  | .addp4 addlen addaddr sumlen sumaddr => [.spec addlen, .spec addaddr, .spec sumlen, .spec sumaddr]
  | .addp6 add1len add1addr add2len add2addr sumlen sumaddr => [.spec add1len, .spec add1addr, .spec add2len, .spec add2addr, .spec sumlen, .spec sumaddr]
  | .subp4 sublen subaddr diflen difaddr => [.spec sublen, .spec subaddr, .spec diflen, .spec difaddr]
  | .subp6 sublen subaddr minlen minaddr diflen difaddr => [.spec sublen, .spec subaddr, .spec minlen, .spec minaddr, .spec diflen, .spec difaddr]
  | .cvtpt srclen srcaddr tbladdr dstlen dstaddr => [.spec srclen, .spec srcaddr, .spec tbladdr, .spec dstlen, .spec dstaddr]
  | .mulp mulrlen mulraddr muldlen muldaddr prodlen prodaddr => [.spec mulrlen, .spec mulraddr, .spec muldlen, .spec muldaddr, .spec prodlen, .spec prodaddr]
  | .cvttp srclen srcaddr tbladdr dstlen dstaddr => [.spec srclen, .spec srcaddr, .spec tbladdr, .spec dstlen, .spec dstaddr]
  | .divp divrlen divraddr divdlen divdaddr quolen quoaddr => [.spec divrlen, .spec divraddr, .spec divdlen, .spec divdaddr, .spec quolen, .spec quoaddr]
  | .movc3 len srcaddr dstaddr => [.spec len, .spec srcaddr, .spec dstaddr]
  | .cmpc3 len src1addr src2addr => [.spec len, .spec src1addr, .spec src2addr]
  | .scanc len addr tbladdr mask => [.spec len, .spec addr, .spec tbladdr, .spec mask]
  | .spanc len addr tbladdr mask => [.spec len, .spec addr, .spec tbladdr, .spec mask]
  | .movc5 srclen srcaddr fill dstlen dstaddr => [.spec srclen, .spec srcaddr, .spec fill, .spec dstlen, .spec dstaddr]
  | .cmpc5 src1len src1addr fill src2len src2addr => [.spec src1len, .spec src1addr, .spec fill, .spec src2len, .spec src2addr]
  | .movtc srclen srcaddr fill tbladdr dstlen dstaddr => [.spec srclen, .spec srcaddr, .spec fill, .spec tbladdr, .spec dstlen, .spec dstaddr]
  | .movtuc srclen srcaddr esc tbladdr dstlen dstaddr => [.spec srclen, .spec srcaddr, .spec esc, .spec tbladdr, .spec dstlen, .spec dstaddr]
  | .bsbw displ => [.dispW displ]
  | .brw displ => [.dispW displ]
  | .cvtwl src dst => [.spec src, .spec dst]
  | .cvtwb src dst => [.spec src, .spec dst]
  | .movp len srcaddr dstaddr => [.spec len, .spec srcaddr, .spec dstaddr]
  | .cmpp3 len src1addr src2addr => [.spec len, .spec src1addr, .spec src2addr]
  | .cvtpl srclen srcaddr dst => [.spec srclen, .spec srcaddr, .spec dst]
  | .cmpp4 src1len src1addr src2len src2addr => [.spec src1len, .spec src1addr, .spec src2len, .spec src2addr]
  | .editpc srclen srcaddr pattern dstaddr => [.spec srclen, .spec srcaddr, .spec pattern, .spec dstaddr]
  | .matchc objlen objaddr srclen srcaddr => [.spec objlen, .spec objaddr, .spec srclen, .spec srcaddr]
  | .locc char len addr => [.spec char, .spec len, .spec addr]
  | .skpc char len addr => [.spec char, .spec len, .spec addr]
  | .movzwl src dst => [.spec src, .spec dst]
  | .acbw limit add idx displ => [.spec limit, .spec add, .spec idx, .dispW displ]
  | .movaw src dst => [.spec src, .spec dst]
  | .pushaw src => [.spec src]
  | .addf2 add sum => [.spec add, .spec sum]
  | .addf3 add1 add2 sum => [.spec add1, .spec add2, .spec sum]
  | .subf2 sub dif => [.spec sub, .spec dif]
  | .subf3 sub minuend dif => [.spec sub, .spec minuend, .spec dif]
  | .mulf2 mulr prod => [.spec mulr, .spec prod]
  | .mulf3 mulr muld prod => [.spec mulr, .spec muld, .spec prod]
  | .divf2 divr quo => [.spec divr, .spec quo]
  | .divf3 divr divd quo => [.spec divr, .spec divd, .spec quo]
  | .cvtfb src dst => [.spec src, .spec dst]
  | .cvtfw src dst => [.spec src, .spec dst]
  | .cvtfl src dst => [.spec src, .spec dst]
  | .cvtrfl src dst => [.spec src, .spec dst]
  | .cvtbf src dst => [.spec src, .spec dst]
  | .cvtwf src dst => [.spec src, .spec dst]
  | .cvtlf src dst => [.spec src, .spec dst]
  | .acbf limit add idx displ => [.spec limit, .spec add, .spec idx, .dispW displ]
  | .movf src dst => [.spec src, .spec dst]
  | .cmpf src1 src2 => [.spec src1, .spec src2]
  | .mnegf src dst => [.spec src, .spec dst]
  | .tstf src => [.spec src]
  | .emodf mulr mulrx muld int fract => [.spec mulr, .spec mulrx, .spec muld, .spec int, .spec fract]
  | .polyf arg degree tbladdr => [.spec arg, .spec degree, .spec tbladdr]
  | .cvtfd src dst => [.spec src, .spec dst]
  | .reserved57 => []
  | .adawi add sum => [.spec add, .spec sum]
  | .reserved59 => []
  | .reserved5a => []
  | .reserved5b => []
  | .reserved5c => []
  | .reserved5d => []
  | .reserved5e => []
  | .reserved5f => []
  | .addd2 add sum => [.spec add, .spec sum]
  | .addd3 add1 add2 sum => [.spec add1, .spec add2, .spec sum]
  | .subd2 sub dif => [.spec sub, .spec dif]
  | .subd3 sub minuend dif => [.spec sub, .spec minuend, .spec dif]
  | .muld2 mulr prod => [.spec mulr, .spec prod]
  | .muld3 mulr muld prod => [.spec mulr, .spec muld, .spec prod]
  | .divd2 divr quo => [.spec divr, .spec quo]
  | .divd3 divr divd quo => [.spec divr, .spec divd, .spec quo]
  | .cvtdb src dst => [.spec src, .spec dst]
  | .cvtdw src dst => [.spec src, .spec dst]
  | .cvtdl src dst => [.spec src, .spec dst]
  | .cvtrdl src dst => [.spec src, .spec dst]
  | .cvtbd src dst => [.spec src, .spec dst]
  | .cvtwd src dst => [.spec src, .spec dst]
  | .cvtld src dst => [.spec src, .spec dst]
  | .acbd limit add idx displ => [.spec limit, .spec add, .spec idx, .dispW displ]
  | .movd src dst => [.spec src, .spec dst]
  | .cmpd src1 src2 => [.spec src1, .spec src2]
  | .mnegd src dst => [.spec src, .spec dst]
  | .tstd src => [.spec src]
  | .emodd mulr mulrx muld int fract => [.spec mulr, .spec mulrx, .spec muld, .spec int, .spec fract]
  | .polyd arg degree tbladdr => [.spec arg, .spec degree, .spec tbladdr]
  | .cvtdf src dst => [.spec src, .spec dst]
  | .reserved77 => []
  | .ashl cnt src dst => [.spec cnt, .spec src, .spec dst]
  | .ashq cnt src dst => [.spec cnt, .spec src, .spec dst]
  | .emul mulr muld add prod => [.spec mulr, .spec muld, .spec add, .spec prod]
  | .ediv divr divd quo rem => [.spec divr, .spec divd, .spec quo, .spec rem]
  | .clrq dst => [.spec dst]
  | .movq src dst => [.spec src, .spec dst]
  | .movaq src dst => [.spec src, .spec dst]
  | .pushaq src => [.spec src]
  | .addb2 add sum => [.spec add, .spec sum]
  | .addb3 add1 add2 sum => [.spec add1, .spec add2, .spec sum]
  | .subb2 sub dif => [.spec sub, .spec dif]
  | .subb3 sub minuend dif => [.spec sub, .spec minuend, .spec dif]
  | .mulb2 mulr prod => [.spec mulr, .spec prod]
  | .mulb3 mulr muld prod => [.spec mulr, .spec muld, .spec prod]
  | .divb2 divr quo => [.spec divr, .spec quo]
  | .divb3 divr divd quo => [.spec divr, .spec divd, .spec quo]
  | .bisb2 mask dst => [.spec mask, .spec dst]
  | .bisb3 mask src dst => [.spec mask, .spec src, .spec dst]
  | .bicb2 mask dst => [.spec mask, .spec dst]
  | .bicb3 mask src dst => [.spec mask, .spec src, .spec dst]
  | .xorb2 mask dst => [.spec mask, .spec dst]
  | .xorb3 mask src dst => [.spec mask, .spec src, .spec dst]
  | .mnegb src dst => [.spec src, .spec dst]
  | .caseb selector base limit => [.spec selector, .spec base, .spec limit]
  | .movb src dst => [.spec src, .spec dst]
  | .cmpb src1 src2 => [.spec src1, .spec src2]
  | .mcomb src dst => [.spec src, .spec dst]
  | .bitb mask src => [.spec mask, .spec src]
  | .clrb dst => [.spec dst]
  | .tstb src => [.spec src]
  | .incb sum => [.spec sum]
  | .decb dif => [.spec dif]
  | .cvtbl src dst => [.spec src, .spec dst]
  | .cvtbw src dst => [.spec src, .spec dst]
  | .movzbl src dst => [.spec src, .spec dst]
  | .movzbw src dst => [.spec src, .spec dst]
  | .rotl cnt src dst => [.spec cnt, .spec src, .spec dst]
  | .acbb limit add idx displ => [.spec limit, .spec add, .spec idx, .dispW displ]
  | .movab src dst => [.spec src, .spec dst]
  | .pushab src => [.spec src]
  | .addw2 add sum => [.spec add, .spec sum]
  | .addw3 add1 add2 sum => [.spec add1, .spec add2, .spec sum]
  | .subw2 sub dif => [.spec sub, .spec dif]
  | .subw3 sub minuend dif => [.spec sub, .spec minuend, .spec dif]
  | .mulw2 mulr prod => [.spec mulr, .spec prod]
  | .mulw3 mulr muld prod => [.spec mulr, .spec muld, .spec prod]
  | .divw2 divr quo => [.spec divr, .spec quo]
  | .divw3 divr divd quo => [.spec divr, .spec divd, .spec quo]
  | .bisw2 mask dst => [.spec mask, .spec dst]
  | .bisw3 mask src dst => [.spec mask, .spec src, .spec dst]
  | .bicw2 mask dst => [.spec mask, .spec dst]
  | .bicw3 mask src dst => [.spec mask, .spec src, .spec dst]
  | .xorw2 mask dst => [.spec mask, .spec dst]
  | .xorw3 mask src dst => [.spec mask, .spec src, .spec dst]
  | .mnegw src dst => [.spec src, .spec dst]
  | .casew selector base limit => [.spec selector, .spec base, .spec limit]
  | .movw src dst => [.spec src, .spec dst]
  | .cmpw src1 src2 => [.spec src1, .spec src2]
  | .mcomw src dst => [.spec src, .spec dst]
  | .bitw mask src => [.spec mask, .spec src]
  | .clrw dst => [.spec dst]
  | .tstw src => [.spec src]
  | .incw sum => [.spec sum]
  | .decw dif => [.spec dif]
  | .bispsw mask => [.spec mask]
  | .bicpsw mask => [.spec mask]
  | .popr mask => [.spec mask]
  | .pushr mask => [.spec mask]
  | .chmk code => [.spec code]
  | .chme code => [.spec code]
  | .chms code => [.spec code]
  | .chmu code => [.spec code]
  | .addl2 add sum => [.spec add, .spec sum]
  | .addl3 add1 add2 sum => [.spec add1, .spec add2, .spec sum]
  | .subl2 sub dif => [.spec sub, .spec dif]
  | .subl3 sub minuend dif => [.spec sub, .spec minuend, .spec dif]
  | .mull2 mulr prod => [.spec mulr, .spec prod]
  | .mull3 mulr muld prod => [.spec mulr, .spec muld, .spec prod]
  | .divl2 divr quo => [.spec divr, .spec quo]
  | .divl3 divr divd quo => [.spec divr, .spec divd, .spec quo]
  | .bisl2 mask dst => [.spec mask, .spec dst]
  | .bisl3 mask src dst => [.spec mask, .spec src, .spec dst]
  | .bicl2 mask dst => [.spec mask, .spec dst]
  | .bicl3 mask src dst => [.spec mask, .spec src, .spec dst]
  | .xorl2 mask dst => [.spec mask, .spec dst]
  | .xorl3 mask src dst => [.spec mask, .spec src, .spec dst]
  | .mnegl src dst => [.spec src, .spec dst]
  | .casel selector base limit => [.spec selector, .spec base, .spec limit]
  | .movl src dst => [.spec src, .spec dst]
  | .cmpl src1 src2 => [.spec src1, .spec src2]
  | .mcoml src dst => [.spec src, .spec dst]
  | .bitl mask src => [.spec mask, .spec src]
  | .clrl dst => [.spec dst]
  | .tstl src => [.spec src]
  | .incl sum => [.spec sum]
  | .decl dif => [.spec dif]
  | .adwc add sum => [.spec add, .spec sum]
  | .sbwc sub dif => [.spec sub, .spec dif]
  | .mtpr src regnumber => [.spec src, .spec regnumber]
  | .mfpr regnumber dst => [.spec regnumber, .spec dst]
  | .movpsl dst => [.spec dst]
  | .pushl src => [.spec src]
  | .moval src dst => [.spec src, .spec dst]
  | .pushal src => [.spec src]
  | .bbs pos base displ => [.spec pos, .spec base, .dispB displ]
  | .bbc pos base displ => [.spec pos, .spec base, .dispB displ]
  | .bbss pos base displ => [.spec pos, .spec base, .dispB displ]
  | .bbcs pos base displ => [.spec pos, .spec base, .dispB displ]
  | .bbsc pos base displ => [.spec pos, .spec base, .dispB displ]
  | .bbcc pos base displ => [.spec pos, .spec base, .dispB displ]
  | .bbssi pos base displ => [.spec pos, .spec base, .dispB displ]
  | .bbcci pos base displ => [.spec pos, .spec base, .dispB displ]
  | .blbs src displ => [.spec src, .dispB displ]
  | .blbc src displ => [.spec src, .dispB displ]
  | .ffs startpos size base findpos => [.spec startpos, .spec size, .spec base, .spec findpos]
  | .ffc startpos size base findpos => [.spec startpos, .spec size, .spec base, .spec findpos]
  | .cmpv pos size base src => [.spec pos, .spec size, .spec base, .spec src]
  | .cmpzv pos size base src => [.spec pos, .spec size, .spec base, .spec src]
  | .extv pos size base dst => [.spec pos, .spec size, .spec base, .spec dst]
  | .extzv pos size base dst => [.spec pos, .spec size, .spec base, .spec dst]
  | .insv src pos size base => [.spec src, .spec pos, .spec size, .spec base]
  | .acbl limit add idx displ => [.spec limit, .spec add, .spec idx, .dispW displ]
  | .aoblss limit idx displ => [.spec limit, .spec idx, .dispB displ]
  | .aobleq limit idx displ => [.spec limit, .spec idx, .dispB displ]
  | .sobgeq idx displ => [.spec idx, .dispB displ]
  | .sobgtr idx displ => [.spec idx, .dispB displ]
  | .cvtlb src dst => [.spec src, .spec dst]
  | .cvtlw src dst => [.spec src, .spec dst]
  | .ashp cnt srclen srcaddr round dstlen dstaddr => [.spec cnt, .spec srclen, .spec srcaddr, .spec round, .spec dstlen, .spec dstaddr]
  | .cvtlp src dstlen dstaddr => [.spec src, .spec dstlen, .spec dstaddr]
  | .callg arglist dst => [.spec arglist, .spec dst]
  | .calls numarg dst => [.spec numarg, .spec dst]
  | .xfc => []
  | .escd => []
  | .esce => []
  | .escf => []

/-- The kinds of an instruction's operands. -/
def Instr.sig (i : Instr) : List Kind := (opRow i.opcode).sig

end Sys2Proof
end

