-- ==== Sys2Proof/WellFormed.lean ====
section
/-! DEFINITION. The well-formed instructions: those some bytes of the instruction stream encode
(30_encoding.md R249, R260, R261). -/
namespace Sys2Proof

/-- The register forms of autoincrement exclude PC, which are the immediate and absolute modes, and an
immediate constant has the operand's size (R256, R257, R261). -/
def BaseSpec.wellFormed (ty : DType) : BaseSpec → Bool
  | .autoInc n => n != rPC
  | .autoIncDef n => n != rPC
  | .imm v => v.toNat < 2 ^ (8 * ty.size)
  | _ => true

/-- The byte of a misused index prefix is a literal, index or register mode byte (R260). -/
def Spec.wellFormed (ty : DType) : Spec → Bool
  | .base b => b.wellFormed ty
  | .index _ b => b.wellFormed ty
  | .indexBad _ b => b.toNat < 0x60
  | _ => true

/-- An operand has the form its kind asks for: a displacement of the kind's size, or a specifier (R242, R264). -/
def Operand.wellFormed (k : Kind) : Operand → Bool
  | .spec sp => k.acc != .branch && sp.wellFormed k.ty
  | .dispB _ => k == .bb
  | .dispW _ => k == .bw

/-- Every operand is well formed for the kind the opcode gives it. -/
def operandsWellFormed : List Kind → List Operand → Bool
  | [], [] => true
  | k :: ks, o :: os => o.wellFormed k && operandsWellFormed ks os
  | _, _ => false

/-- The instruction is one that some bytes encode. -/
def Instr.WellFormed (i : Instr) : Bool := operandsWellFormed i.sig i.operands

end Sys2Proof
end

