-- ==== Sys2Proof/Decode.lean ====
section
/-! DEFINITION. The decoder, total on any list of bytes, and the encoder (30_encoding.md R240 to R264). -/
namespace Sys2Proof

/-- Why no instruction is read from a list of bytes. -/
inductive DecodeError where
  /-- The list ends inside the instruction. -/
  | truncated
  /-- The operands do not have the opcode's shape; no list of bytes gives this. -/
  | malformed
  deriving DecidableEq, Repr

/-- Little-endian value of a list of bytes (20_memory.md R151). -/
def leValue : List Byte → Nat
  | [] => 0
  | b :: bs => b.toNat + 256 * leValue bs

/-- The n low-order bytes of a value, low-order byte first (20_memory.md R151). -/
def leBytes : Nat → Nat → List Byte
  | 0, _ => []
  | n + 1, v => BitVec.ofNat 8 v :: leBytes n (v / 256)

/-- The first n bytes of the stream and the rest, when there are that many. -/
def takeBytes : Nat → List Byte → Option (List Byte × List Byte)
  | 0, bs => some ([], bs)
  | _ + 1, [] => none
  | n + 1, b :: bs => (takeBytes n bs).map fun p => (b :: p.1, p.2)

/-- An item of n bytes of the stream, as a value of w bits, handed to k (R243). -/
def decodeItem {α : Type} (n w : Nat) (k : BitVec w → α) (bs : List Byte) : Option (α × List Byte) :=
  (takeBytes n bs).map fun p => (k (BitVec.ofNat w (leValue p.1)), p.2)

/-- The register number of a specifier byte, bits 3:0 (R248). -/
def specReg (b : Byte) : Reg := ⟨b.toNat % 16, Nat.mod_lt _ (by decide)⟩

/-- The base specifier whose first byte is b, of mode 6 to F, and the rest of the stream (R249). -/
def decodeBase (ty : DType) (b : Byte) (bs : List Byte) : Option (BaseSpec × List Byte) :=
  let n := specReg b
  match b.toNat / 16 with
  | 6 => some (.regDef n, bs)
  | 7 => some (.autoDec n, bs)
  | 8 => if n = rPC then decodeItem ty.size 64 .imm bs else some (.autoInc n, bs)
  | 9 => if n = rPC then decodeItem 4 32 .abs bs else some (.autoIncDef n, bs)
  | 10 => decodeItem 1 8 (.dispB n) bs
  | 11 => decodeItem 1 8 (.dispBDef n) bs
  | 12 => decodeItem 2 16 (.dispW n) bs
  | 13 => decodeItem 2 16 (.dispWDef n) bs
  | 14 => decodeItem 4 32 (.dispL n) bs
  | _ => decodeItem 4 32 (.dispLDef n) bs

/-- One operand specifier (R248, R249, R253, R254, R260). -/
def decodeSpec (ty : DType) : List Byte → Option (Spec × List Byte)
  | [] => none
  | b :: bs =>
    if b.toNat < 0x40 then some (.lit (b.setWidth 6), bs)
    else if b.toNat < 0x50 then
      match bs with
      | [] => none
      | c :: cs =>
        if c.toNat < 0x60 then some (.indexBad (specReg b) c, cs)
        else (decodeBase ty c cs).map fun p => (.index (specReg b) p.1, p.2)
    else if b.toNat < 0x60 then some (.reg (specReg b), bs)
    else (decodeBase ty b bs).map fun p => (.base p.1, p.2)

/-- One operand: a branch displacement or a specifier, as the kind says (R242, R264). -/
def decodeOperand (k : Kind) (bs : List Byte) : Option (Operand × List Byte) :=
  match k.acc, k.ty with
  | .branch, .b => decodeItem 1 8 .dispB bs
  | .branch, _ => decodeItem 2 16 .dispW bs
  | _, ty => (decodeSpec ty bs).map fun p => (.spec p.1, p.2)

/-- The operands of an instruction, in the order of the instruction stream (R240). -/
def decodeOperands : List Kind → List Byte → Option (List Operand × List Byte)
  | [], bs => some ([], bs)
  | k :: ks, bs =>
    (decodeOperand k bs).bind fun p => (decodeOperands ks p.2).map fun q => (p.1 :: q.1, q.2)

/-- The instruction at the head of a list of bytes, and the bytes after it (R241, R245). A reserved opcode and a
reserved addressing mode are instructions that fault when they run; only the end of the list stops the decoder. -/
def decode : List Byte → Except DecodeError (Instr × List Byte)
  | [] => .error .truncated
  | op :: bs =>
    let row := opRow op
    match decodeOperands row.sig bs with
    | none => .error .truncated
    | some (os, rest) =>
      match row.build os with
      | none => .error .malformed
      | some i => .ok (i, rest)

/-- The operands that stand whole in a list of bytes that ends inside an instruction, with their kinds. -/
def decodePrefixOperands : List Kind → List Byte → List (Kind × Operand)
  | [], _ => []
  | k :: ks, bs =>
    match decodeOperand k bs with
    | none => []
    | some (o, rest) => (k, o) :: decodePrefixOperands ks rest

/-- A specifier byte of a mode and a register number (R248). -/
def specByte (mode : Nat) (n : Reg) : Byte := BitVec.ofNat 8 (16 * mode + n.val)

/-- The bytes of a base specifier for an operand of a data type (R249). -/
def encodeBase (ty : DType) : BaseSpec → List Byte
  | .regDef n => [specByte 6 n]
  | .autoDec n => [specByte 7 n]
  | .autoInc n => [specByte 8 n]
  | .imm v => 0x8F :: leBytes ty.size v.toNat
  | .autoIncDef n => [specByte 9 n]
  | .abs a => 0x9F :: leBytes 4 a.toNat
  | .dispB n d => specByte 10 n :: leBytes 1 d.toNat
  | .dispBDef n d => specByte 11 n :: leBytes 1 d.toNat
  | .dispW n d => specByte 12 n :: leBytes 2 d.toNat
  | .dispWDef n d => specByte 13 n :: leBytes 2 d.toNat
  | .dispL n d => specByte 14 n :: leBytes 4 d.toNat
  | .dispLDef n d => specByte 15 n :: leBytes 4 d.toNat

/-- The bytes of a specifier (R249, R253, R260). -/
def encodeSpec (ty : DType) : Spec → List Byte
  | .lit v => [v.setWidth 8]
  | .reg n => [specByte 5 n]
  | .base b => encodeBase ty b
  | .index x b => specByte 4 x :: encodeBase ty b
  | .indexBad x b => [specByte 4 x, b]

/-- The bytes of an operand (R242, R264). -/
def encodeOperand (ty : DType) : Operand → List Byte
  | .spec sp => encodeSpec ty sp
  | .dispB d => leBytes 1 d.toNat
  | .dispW d => leBytes 2 d.toNat

/-- The bytes of the operands, in order. -/
def encodeOperands : List Kind → List Operand → List Byte
  | k :: ks, o :: os => encodeOperand k.ty o ++ encodeOperands ks os
  | _, _ => []

/-- The bytes of an instruction: the opcode, then the operands (R240). -/
def encode (i : Instr) : List Byte := i.opcode :: encodeOperands i.sig i.operands

/-- The length in bytes of a specifier for an operand of a data type (R249). -/
def Spec.length (ty : DType) (sp : Spec) : Nat := (encodeSpec ty sp).length

/-- The length in bytes of an instruction (R245). -/
def Instr.length (i : Instr) : Nat := (encode i).length

/-- The longest instruction: an opcode and six specifiers of an index prefix and an 8-byte immediate (R245). -/
def maxInstrBytes : Nat := 61

/-- The bytes of an instruction whose low-order bits are w, every later byte 0. -/
def tableBytes (w : Nat) : List Byte := leBytes maxInstrBytes w

/-- The instruction the decoder reads from the bits w of an opcode-table row, the bits above them 0. -/
def decodeTableWord (nbits w : Nat) : Option Instr :=
  match decode (tableBytes (w % 2 ^ nbits)) with
  | .ok (i, _) => some i
  | .error _ => none

/-- The first byte has the opcode `80` ADDB2 with two literals: the table's words stand for zero operand bytes. -/
theorem decodeTableWord_addb2 : decodeTableWord 8 0x80 = some (.addb2 (.lit 0) (.lit 0)) := by decide

end Sys2Proof
end

