-- ==== Sys2Proof/Machine/Bits.lean ====
section
/-! DEFINITION. Fields of words (00_scope.md R13). -/
namespace Sys2Proof.Machine
open Sys2Proof

/-- The field of w bits whose lowest bit is lo, replaced by v. -/
def setField {n w : Nat} (x : BitVec n) (lo : Nat) (v : BitVec w) : BitVec n :=
  (x &&& ~~~((BitVec.allOnes w).setWidth n <<< lo)) ||| (v.setWidth n <<< lo)

/-- Bit i of x, replaced by b. -/
def setBit {n : Nat} (x : BitVec n) (i : Nat) (b : Bool) : BitVec n :=
  setField x i (BitVec.ofBool b)

/-- A word with bit i set when b holds, all else 0. -/
def bitAt (i : Nat) (b : Bool) : Word := if b then BitVec.ofNat 32 (2 ^ i) else 0

/-- The low-order longword of a quadword (10_state.md R40). -/
def loLong (q : BitVec 64) : Word := q.setWidth 32

/-- The high-order longword of a quadword (R40). -/
def hiLong (q : BitVec 64) : Word := q.extractLsb' 32 32

/-- Byte i of a value, byte 0 the low-order one (20_memory.md R150). -/
def byteOf {n : Nat} (x : BitVec n) (i : Nat) : Byte := x.extractLsb' (8 * i) 8

/-- The value of the bytes f 0 to f (n-1), f 0 low-order (R150). -/
def joinBytes (f : Nat → Byte) : Nat → Nat
  | 0 => 0
  | n + 1 => joinBytes f n + (f n).toNat * 256 ^ n

end Sys2Proof.Machine
end

