-- ==== Sys2Proof/Config.lean ====
section
/-! DEFINITION. The free values (UNPREDICTABLE results, 00_scope.md R18) and the configuration parameters
(00_scope.md R12), which are plain data carried by the state. -/
namespace Sys2Proof.Config

/-- DESIGN CHOICE (log 7). The value of the n-th draw: a free 64-bit value, of which a draw of fewer bits
takes the low-order ones. Nothing is known of it. -/
opaque freeValue : Nat → BitVec 64

/-- One main-memory controller (64_memory_controller.md R860, R890). -/
structure MemCtl where
  /-- TR number, 1 to 15. -/
  tr : Nat
  /-- Size in units of 64 KB, 1 to 64. -/
  units : Nat
  /-- Register A bits 4:3: 1 for 4K chips, 2 for 16K chips (R873). -/
  chip : BitVec 2
  /-- The bootstrap ROM answers at offsets 1000 to 1FFF (R890); strapped off otherwise. -/
  rom : Bool
  /-- Starting address that the backplane jumpers select, in units of 64 KB (R874, R895; 00_scope.md R12). -/
  start : BitVec 13
  deriving DecidableEq, Repr

/-- One UNIBUS adapter (65_uba.md R900, R904). -/
structure Uba where
  tr : Nat
  /-- UNIBUS number, 0 to 3: the window (20_memory.md R168). -/
  num : Nat
  /-- The adapter's own request level, 4 to 7. -/
  level : Nat
  /-- The attached devices in electrical order, the one closest to the adapter first: the UNIBUS word addresses (even) that
  each answers to. -/
  devices : List (List Nat)
  deriving DecidableEq, Repr

/-- The kind of a MASSBUS data transfer (66_mba.md R1002). -/
inductive MbaTransfer where
  /-- Drive to memory. -/
  | read
  /-- Memory to drive. -/
  | write
  /-- Memory compared with the drive. -/
  | writeCheck
  deriving DecidableEq, Repr

/-- A register value that a drive takes as a data-transfer command; which ones those are depends on the drive (66_mba.md
R1002). -/
structure DriveCommand where
  reg : Nat
  value : BitVec 16
  kind : MbaTransfer
  deriving DecidableEq, Repr

/-- One MASSBUS drive (R1002). -/
structure Drive where
  /-- Unit number, 0 to 7. -/
  unit : Nat
  /-- The registers, 0 to 31, that the drive answers for. -/
  regs : List Nat
  commands : List DriveCommand
  deriving DecidableEq, Repr

/-- One MASSBUS adapter (66_mba.md R1000). -/
structure Mba where
  tr : Nat
  /-- Request level, 4 to 7. -/
  level : Nat
  /-- The drives present. -/
  drives : List Drive
  deriving DecidableEq, Repr

/-- What the console finds on comparing the versions of the control stores (62_console.md R760). -/
inductive Versions where
  | matched
  /-- ?WARNING-WCS & FPLA VER MISMATCH -/
  | warning
  /-- ?FATAL-WCS & PCS VER MISMATCH -/
  | fatal
  deriving DecidableEq, Repr

/-- The parameters of 00_scope.md R12. -/
structure Params where
  memctls : List MemCtl
  ubas : List Uba
  mbas : List Mba
  fpaPresent : Bool
  wcsBlocks : Byte
  todrPresent : Bool
  sid : Word
  /-- Number of information longwords of a machine check, MCHK_BYTES / 4 (60_exceptions.md R1206). -/
  mchkLongs : Nat
  /-- BOOT_ROM, at most 1024 longwords; empty when absent (64_memory_controller.md R891). -/
  bootRom : List Word
  versions : Versions
  /-- The console has its remote support software (62_console.md R773). -/
  remoteSupport : Bool
  deriving DecidableEq, Repr

/-- DESIGN CHOICE (log 4). The configuration State.reset carries: one 1 Mbyte controller at TR 1, one UNIBUS
adapter at TR 3 and one MASSBUS adapter at TR 8, both requesting at level 5, no device attached. -/
def Params.default : Params where
  memctls := [{ tr := 1, units := 16, chip := 1, rom := false, start := 0 }]
  ubas := [{ tr := 3, num := 0, level := 5, devices := [] }]
  mbas := [{ tr := 8, level := 5, drives := [] }]
  fpaPresent := true
  wcsBlocks := 0x10
  todrPresent := true
  sid := 0x01000000
  mchkLongs := 0
  bootRom := []
  versions := .matched
  remoteSupport := false

end Sys2Proof.Config
end

