-- ==== Sys2Proof/Machine/State.lean ====
section
/-! DEFINITION. The state of the machine, plain data, and its value after reset (10_state.md, 61_cpu_devices.md to
66_mba.md, 70_reset_and_hazards.md R1261 to R1263). -/
namespace Sys2Proof.Machine
open Sys2Proof

/-- Why a step ends the run as an error of the model. -/
inductive Fault where
  /-- Raised by step if the decoder met operands that do not fit the opcode; no bytes give this. Safe. -/
  | malformedInstruction
  deriving DecidableEq, Repr

/-- Why a step has no successor. Every one is safe: the machine does something here, the model nothing. -/
inductive Refusal where
  /-- An arm of exec that has no meaning yet. Safe. -/
  | notModelled (mnemonic : String)
  /-- Raised by step at a fetch with PSL CM set: PDP-11 mode has no encodings (00_scope.md R7, D2). Safe. -/
  | compatibilityMode
  /-- Raised by operand evaluation for a use of PC the architecture calls UNPREDICTABLE (30_encoding.md R266, D20). Safe. -/
  | unpredictableSpecifier
  /-- Raised by a reference the spec excludes from I/O space, UNDEFINED there (20_memory.md R230, D19). Safe. -/
  | ioSpaceReference
  /-- Raised by a vector to user microcode when there is a writable control store (60_exceptions.md R1197, D23). Safe. -/
  | userMicrocode
  /-- Raised by a register access of an adapter or controller that the spec calls UNPREDICTABLE or leaves to
  diagnostics (D32, D33, D34). Safe. -/
  | deviceDiscipline
  /-- Raised by a turn of the agenda that its agent cannot take in this state (62_console.md R743, D25). Safe. -/
  | turnNotEnabled
  deriving DecidableEq, Repr

/-- Why the processor is halted (62_console.md R765). -/
inductive HaltReason where
  /-- Not yet started after reset, in the console wait loop (70_reset_and_hazards.md R1261). -/
  | initial
  /-- HALT executed in kernel mode (40_privileged.md R332). -/
  | haltInstruction
  /-- The console's HALT, or the end of a single step (62_console.md R749, R752). -/
  | console
  /-- ?INT-STACK INVALID -/
  | intStackInvalid
  /-- ?CPU DOUBLE-ERR HALT -/
  | doubleError
  /-- ?ILL I/E VECTOR -/
  | illegalVector
  /-- ?NO USR WCS -/
  | noUserWcs
  /-- ?CHM ERR -/
  | chmError
  deriving DecidableEq, Repr

/-- ICCS, the four stored bits (10_state.md R73). -/
structure Iccs where
  err : Bool
  int : Bool
  ie : Bool
  run : Bool
  deriving DecidableEq, Repr

/-- One longword written into the control store (10_state.md R88): microword address, third, parity inverted. -/
structure WcsEntry where
  addr : BitVec 13
  third : BitVec 2
  inverted : Bool
  value : Word
  deriving DecidableEq, Repr

/-- The processor registers that are cells of their own, and the requests the CPU latches (10_state.md R56, R118). -/
structure Ipr where
  p0br : Word
  p0lr : BitVec 22
  p1br : Word
  p1lr : BitVec 22
  sbr : Word
  slr : BitVec 22
  pcbb : Word
  scbb : Word
  astlvl : BitVec 3
  sisr : BitVec 16
  iccs : Iccs
  nicr : Word
  icr : Word
  todr : Word
  rxDone : Bool
  rxIe : Bool
  rxdb : Word
  txRdy : Bool
  txIe : Bool
  txdb : Word
  accsEnb : Bool
  accrTrap : Byte
  wcsAddr : BitVec 13
  wcsCtr : BitVec 2
  wcsPin : Bool
  /-- The control store's written longwords, latest first. -/
  wcs : List WcsEntry
  sbifs : Word
  sbisc : Word
  sbimt : Word
  sbier : Word
  /-- SBITA: the longword address of the last machine check for an address where nothing responds (61_cpu_devices.md R1140). -/
  sbita : Word
  mapen : Bool
  mbrk : BitVec 13
  pme : Bool
  rxReq : Bool
  txReq : Bool
  timerReq : Bool
  powerReq : Bool
  deriving DecidableEq, Repr

/-- One cached page table entry (10_state.md R115): virtual page number VA 31:9, the PTE, the physical address of the longword
it was read from, and for a process page that of the system PTE its page table page was mapped by. -/
structure TbEntry where
  vpn : BitVec 23
  pte : Word
  at_ : Nat
  sys : Option Nat
  deriving DecidableEq, Repr

/-- The processor registers that hold the memory map (70_reset_and_hazards.md R1284). -/
structure MapRegs where
  mapen : Bool
  sbr : Word
  slr : BitVec 22
  p0br : Word
  p0lr : BitVec 22
  p1br : Word
  p1lr : BitVec 22
  deriving DecidableEq, Repr

/-- What happened to the memory map or to what may be a page table since the last TBIA (70_reset_and_hazards.md R1281). -/
inductive MapChange where
  /-- A longword with bit 31 set was stored over: its address, aligned, and what it was. -/
  | pte (pa : Nat) (old : Word)
  /-- The registers of the map were written: what they were. -/
  | regs (old : MapRegs)
  /-- TBIS of the page. -/
  | flush (page : BitVec 23)
  /-- The process pages were invalidated. -/
  | flushProcess
  deriving DecidableEq, Repr

/-- A byte of main memory overwritten since the last synchronising event (20_memory.md R229; 70_reset_and_hazards.md R1282). -/
structure Overwritten where
  pa : Nat
  old : Byte
  /-- PC at each store of an agent other than the CPU since the old byte stood there: the instruction buffer must have held
  it then. -/
  agents : List Word
  deriving DecidableEq, Repr

/-- One main-memory controller's Registers A and B (64_memory_controller.md R873, R874). -/
structure MemCtlState where
  /-- Register A 23:22, power-up and power-down status. -/
  power : BitVec 2
  /-- Register A 0. -/
  interleave : Bool
  /-- Register B 27:15, in units of 64 KB. -/
  start : BitVec 13
  /-- Register B 13:12. -/
  initStatus : BitVec 2
  /-- Register B 10:0; 9 and 8 are never set. -/
  diag : BitVec 11
  deriving DecidableEq, Repr

/-- A quadword of the memory array in error (64_memory_controller.md R861, R867, R868). -/
structure MemError where
  /-- The quadword's number: its storage cells are 8 times this and the seven after. -/
  quad : Nat
  /-- Two bits are wrong, which ECC only detects; otherwise one, which it corrects. -/
  double : Bool
  deriving DecidableEq, Repr

/-- Errors and what reports them. -/
structure Errors where
  /-- The quadwords in error. -/
  memory : List MemError
  /-- Register C 30:0 of each memory controller (64_memory_controller.md R876). -/
  regC : List (BitVec 31)
  /-- The interrupt requests of SBI, memory and processor errors at levels 18 to 1D, level 18 first (10_state.md R118 (5)). -/
  requests : BitVec 6
  deriving DecidableEq, Repr

/-- One data path of a UNIBUS adapter (65_uba.md R947). -/
structure DataPath where
  bne : Bool
  bte : Bool
  dpf : Bool
  bs : Byte
  buba : BitVec 16
  /-- The eight bytes held. -/
  data : BitVec 64
  /-- The quadword of physical memory they belong to (R933, R935). -/
  held : BitVec 27
  /-- They came in longword-aligned mode and stand in the low half (R936). -/
  long : Bool
  deriving DecidableEq, Repr

/-- A data path that holds nothing. -/
def DataPath.empty : DataPath := ⟨false, false, false, 0, 0, 0, 0, false⟩

/-- Where a UNIBUS adapter stands in its initialization (65_uba.md R980, R982). -/
inductive UbaPhase where
  /-- The adapter and its UNIBUS are ready. -/
  | ready
  /-- Adapter INIT is running. -/
  | adapterInit
  /-- The UNIBUS power-fail and initialization sequence is running. -/
  | unibusInit
  deriving DecidableEq, Repr

/-- One interrupt request of a UNIBUS device: the device's place in the electrical order, level 4 to 7 and the vector it gives
when granted (65_uba.md R902, R904). -/
structure BrRequest where
  device : Nat
  level : Nat
  vector : BitVec 16
  deriving DecidableEq, Repr

/-- A CPU write the adapter has acknowledged and not yet made on the UNIBUS (65_uba.md R912). -/
structure PostedWrite where
  addr : BitVec 18
  /-- The word, or the byte in bits 7:0. -/
  data : BitVec 16
  /-- DATO; otherwise DATOB. -/
  word : Bool
  /-- The write of an interlocked sequence (R913). -/
  ilk : Bool
  deriving DecidableEq, Repr

/-- Who makes an Interlock Read Masked to UNIBUS space: the CPU, or a UNIBUS adapter for a device (65_uba.md R913, R931). -/
inductive Commander where
  | cpu
  | adapter (n : Nat)
  deriving DecidableEq, Repr

/-- One UNIBUS adapter's registers and bus (65_uba.md R940 to R948, R904, R913). -/
structure UbaState where
  adPdn : Bool
  adPup : Bool
  ubInit : Bool
  ubPdn : Bool
  ubic : Bool
  /-- UACR; bits 31, 25:7 and 0 are 0. -/
  uacr : Word
  /-- UASR 10:0. -/
  uasr : BitVec 11
  dcrSpare : Bool
  dintr : Bool
  fmer : BitVec 9
  fubar : BitVec 16
  brsvr : Vector (BitVec 16) 4
  dpr : Vector DataPath 16
  /-- The map registers that are not 0, by number, rising. -/
  map : List (Nat × Word)
  /-- The requests asserted by the devices, electrically first device first (R902). -/
  brs : List BrRequest
  /-- The interlock flip-flop of a DATIP and DATO sequence made for a commander of the SBI, and who set it (R913). -/
  datip : Option Commander
  /-- A device holds the SBI interlock between its DATIP and its DATO through the direct data path (R931). -/
  ddpLock : Bool
  /-- The word address at which a device is between its DATIP and its DATO: it keeps the UNIBUS (R901). -/
  hold : Option (BitVec 18)
  /-- The next word a device gives the CPU comes with PB asserted: a device parity error (R901, R914). -/
  pb : Bool
  /-- The CPU's writes still to be made on the UNIBUS, oldest first (R912, R914). -/
  posted : List PostedWrite
  /-- The adapter has waited 50 microseconds for a UNIBUS that a device holds (R914). -/
  late : Bool
  phase : UbaPhase
  deriving DecidableEq, Repr

/-- One MASSBUS adapter's registers and transfer (66_mba.md R1010 to R1017, R1041). -/
structure MbaState where
  pd : Bool
  pu : Bool
  ie : Bool
  abort : Bool
  /-- SR; bit 16 follows the attention lines and is kept 0 here, bit 31 is DTBUSY. -/
  sr : Word
  var : BitVec 17
  bcr : Word
  /-- The map registers that are not 0, by number, rising. -/
  map : List (Nat × Word)
  /-- ATTN of drives 7 to 0. -/
  attn : Byte
  /-- A data-transfer command sent to a drive, whose OCC has not come yet (R1002). -/
  commanded : Option Config.MbaTransfer
  transfer : Option Config.MbaTransfer
  /-- The transfer has made no SBI transaction yet. -/
  first : Bool
  /-- The transfer is being aborted and ends with the sector (R1011, R1012). -/
  aborting : Bool
  /-- The byte counter 31:16 has counted up to 0 in this transfer: the SBI side is done (R1014). -/
  counted : Bool
  /-- The byte counter 15:0 has counted up to 0 in this transfer: the MASSBUS side is done (R1014, 90_conflicts.md C46). -/
  massCounted : Bool
  /-- The silo's bytes, oldest first (R1041). -/
  silo : List Byte
  deriving DecidableEq, Repr

/-- Everything on the SBI but the CPU and the memory array. -/
structure Bus where
  memctls : List MemCtlState
  ubas : List UbaState
  mbas : List MbaState
  /-- The SBI interlock line, held by an agent other than the CPU (10_state.md R121, 64_memory_controller.md R870). -/
  intlk : Bool
  deriving DecidableEq, Repr

/-- The address spaces of EXAMINE and DEPOSIT (62_console.md R746). -/
inductive ConsoleSpace where
  | physical | virtual | internal | general | idBus | vBus
  deriving DecidableEq, Repr

/-- The data lengths of EXAMINE and DEPOSIT (R746). -/
inductive ConsoleLength where
  | byte | word | long | quad
  deriving DecidableEq, Repr

/-- Positions of the console's mode switch that the spec tells of (R742, R773; log 19). -/
inductive ModeSwitch where
  | normal
  /-- Control-P is ignored. -/
  | disable
  | remote
  deriving DecidableEq, Repr

/-- SET CLOCK (R754). -/
inductive ConsoleClock where
  | slow | fast | normal
  deriving DecidableEq, Repr

/-- SET STEP and CLEAR STEP (R752). -/
inductive ConsoleStep where
  | none | instruction | bus | state
  deriving DecidableEq, Repr

/-- The console's own state (62_console.md). -/
structure Console where
  /-- Program I/O mode; otherwise console command mode (R741). -/
  programIo : Bool
  stepMode : ConsoleStep
  relocation : Word
  hexRadix : Bool
  space : ConsoleSpace
  length : ConsoleLength
  somm : Bool
  /-- Where the mode switch stands (R742, R773). -/
  switch : ModeSwitch
  /-- Floppy drive 1 enabled (R755). -/
  dx1 : Bool
  clock : ConsoleClock
  fill : Nat
  /-- Space, address and length of the last EXAMINE or DEPOSIT, and its datum (R747). -/
  lastSpace : ConsoleSpace
  lastAddr : Word
  lastLength : ConsoleLength
  lastData : BitVec 64
  deriving DecidableEq, Repr

/-- What the machine says to the outside (62_console.md R743, R748, R760 to R765; 65_uba.md R904; 66_mba.md R1002). -/
inductive Output where
  /-- TXDB 11:0 taken by the console. -/
  | transmitted (datum : BitVec 12)
  /-- The datum an EXAMINE displays. -/
  | examined (datum : BitVec 64)
  /-- ?MIC-ERR ON FUNCTION, and the SBI error registers SBIFS, SBIER and SBITA after it (R761). -/
  | micErr (sbifs sbier sbita : Word)
  /-- ?INT-REG ERR -/
  | intRegErr
  /-- ?MEM-MAN FAULT, CODE=XX -/
  | memManFault (code : BitVec 4)
  /-- ?CPU NOT IN CONSOLE WAIT LOOP,COMMAND ABORTED -/
  | notInWaitLoop
  /-- ?CPU CLOCK STOPPED,COMMAND ABORTED -/
  | clockStopped
  /-- INT PENDING -/
  | intPending
  /-- ?WARNING-WCS & FPLA VER MISMATCH, or ?FATAL-WCS & PCS VER MISMATCH (R760). -/
  | versionMismatch (v : Config.Versions)
  /-- ?REMOTE ACCESS NOT SUPPORTED (R760, R773). -/
  | remoteNotSupported
  /-- SHOW: the console's settings, and whether the processor runs (R755). -/
  | shown (settings : Console) (halted : Bool)
  /-- SHOW VERSION -/
  | shownVersion (v : Config.Versions)
  /-- The help file. -/
  | help
  /-- The message of a halt. -/
  | halted (why : HaltReason)
  /-- DATO to a device of UNIBUS adapter n. -/
  | unibusWord (n : Nat) (addr : BitVec 18) (v : BitVec 16)
  /-- DATOB to a device of UNIBUS adapter n. -/
  | unibusByte (n : Nat) (addr : BitVec 18) (v : Byte)
  /-- DATI or DATIP of the CPU at a device of UNIBUS adapter n. -/
  | unibusRead (n : Nat) (addr : BitVec 18)
  /-- The word UNIBUS adapter n answers to a device's DATI or DATIP. -/
  | dmaData (n : Nat) (v : BitVec 16)
  /-- The adapter answers a device's DATO or DATOB. -/
  | dmaDone (n : Nat)
  /-- The adapter does not answer a device: nonexistent memory. -/
  | dmaNxm (n : Nat)
  /-- UNIBUS INIT of adapter n. -/
  | unibusInit (n : Nat)
  /-- A register write sent to a drive of MASSBUS adapter n. -/
  | driveWrite (n : Nat) (unit : BitVec 3) (reg : BitVec 5) (v : BitVec 16)
  /-- A register read sent to a drive of MASSBUS adapter n. -/
  | driveRead (n : Nat) (unit : BitVec 3) (reg : BitVec 5)
  /-- A data word MASSBUS adapter n gives the drive. -/
  | driveData (n : Nat) (v : BitVec 16)
  /-- MASSBUS INIT of adapter n. -/
  | massbusInit (n : Nat)
  deriving DecidableEq, Repr

/-- The address of an EXAMINE or DEPOSIT (62_console.md R747). -/
inductive ConsoleAddr where
  | at (a : Word)
  /-- `*` -/
  | last
  /-- `+` -/
  | following
  /-- `-` -/
  | preceding
  /-- `@` -/
  | lastDatum
  deriving DecidableEq, Repr

/-- The console's commands that the model's host issues (62_console.md R746 to R758). A missing qualifier takes the
default of SET DEFAULT (R755). -/
inductive ConsoleCmd where
  | examine (space : Option ConsoleSpace) (len : Option ConsoleLength) (addr : ConsoleAddr)
  | deposit (space : Option ConsoleSpace) (len : Option ConsoleLength) (addr : ConsoleAddr) (datum : BitVec 64)
  | examinePsl
  | depositPsl (v : Word)
  | halt
  | continue
  | init
  | start (addr : Word)
  | load (addr : Word) (bytes : List Byte)
  /-- LOAD/WCS: longwords for successive thirds from a microword address on (R751). -/
  | loadWcs (addr : BitVec 13) (longs : List Word)
  | setStep (m : ConsoleStep)
  | next (n : Nat)
  | qclear (addr : Word)
  | unjam
  | setRelocation (v : Word)
  | setDefault (hexRadix : Bool) (space : ConsoleSpace) (len : ConsoleLength)
  | setSomm (on : Bool)
  | setClock (c : ConsoleClock)
  | setFill (n : Nat)
  | enableDx1
  | show
  | showVersion
  | help
  | waitDone
  | reboot
  /-- Control-P typed at the terminal (R742). -/
  | controlP
  /-- SET TERMINAL PROGRAM (R742). -/
  | setTerminalProgram
  deriving DecidableEq, Repr

/-- What a UNIBUS adapter or a device on its bus does (65_uba.md R904, R914, R930 to R937, R980). -/
inductive UnibusEvent where
  /-- A device asserts a request. -/
  | raise (r : BrRequest)
  /-- A device withdraws a request. -/
  | drop (r : BrRequest)
  | dati (addr : BitVec 18)
  | datip (addr : BitVec 18)
  | dato (addr : BitVec 18) (v : BitVec 16)
  | datob (addr : BitVec 18) (v : Byte)
  /-- The next word a device gives the CPU comes with PB asserted (R901, R914). -/
  | parity
  /-- A device gives up between its DATIP and its DATO (64_memory_controller.md R872). -/
  | abandon
  /-- The adapter makes the oldest posted write on the UNIBUS, or gives it up (R912, R914). -/
  | posted
  /-- The adapter has waited 50 microseconds for the UNIBUS that a device holds (R914). -/
  | grantTimeout
  /-- The adapter's own initialization ends (R980). -/
  | adapterInitDone
  /-- The UNIBUS initialization sequence ends (R980). -/
  | unibusInitDone
  deriving DecidableEq, Repr

/-- What a MASSBUS adapter or a drive does (66_mba.md R1002, R1041). -/
inductive MassbusEvent where
  | attention (unit : BitVec 3) (on : Bool)
  /-- The drive that was sent a data-transfer command accepts it (OCC). -/
  | start
  /-- The drive gives a word (read, write check). -/
  | driveWord (v : BitVec 16)
  /-- The drive takes a word (write). -/
  | driveTake
  /-- The adapter makes its next SBI transaction of the transfer. -/
  | quadword
  /-- End of block: the drive ends a sector. -/
  | endOfBlock
  /-- The drive raises EXC. -/
  | exception
  deriving DecidableEq, Repr

/-- One turn of an agent (00_scope.md R9). -/
inductive Turn where
  /-- The CPU takes one step (60_exceptions.md R1232). -/
  | cpu
  /-- The interval clock ticks (61_cpu_devices.md R1085). -/
  | intervalTick
  /-- The time-of-year clock ticks (R1080). -/
  | todrTick
  /-- The console carries out a command. -/
  | console (c : ConsoleCmd)
  /-- The console delivers a character of a unit (62_console.md R743). -/
  | deliver (unit : BitVec 4) (c : Byte)
  /-- The console takes the transmitted datum (R743). -/
  | accept
  | unibus (n : Nat) (e : UnibusEvent)
  | massbus (n : Nat) (e : MassbusEvent)
  /-- A power-fail request is injected (60_exceptions.md R1208). -/
  | powerFail
  /-- The request of an SBI, memory or processor error at level 18 to 1D is injected (R1171; 10_state.md R118 (5)). -/
  | busError (level : Nat)
  /-- One bit, or two, of the memory quadword at a physical address go wrong (64_memory_controller.md R868). -/
  | memError (pa : Nat) (double : Bool)
  /-- AC LO of memory controller k is deasserted, or asserted (64_memory_controller.md R873). -/
  | memPower (k : Nat) (up : Bool)
  /-- AC LO of UNIBUS adapter n is deasserted, or asserted (65_uba.md R940). -/
  | ubaPower (n : Nat) (up : Bool)
  /-- AC LO of MASSBUS adapter n is deasserted, or asserted (66_mba.md R1010). -/
  | mbaPower (n : Nat) (up : Bool)
  /-- Power comes back after a failure that the memory's battery bridged (70_reset_and_hazards.md R1262, R1270). -/
  | restart
  /-- The operator turns the console's mode switch (62_console.md R742, R773). -/
  | modeSwitch (position : ModeSwitch)
  deriving DecidableEq, Repr

/-- Running or halted (10_state.md R119). -/
structure RunState where
  halted : Bool
  why : HaltReason
  /-- The console asks for a halt between instructions (62_console.md R749). -/
  haltReq : Bool
  /-- CPU steps still to take before a single step's halt (R752). -/
  stepsLeft : Option Nat
  deriving DecidableEq, Repr

/-- The machine. -/
structure State where
  /-- The configuration (00_scope.md R12), never changed by a step. -/
  cfg : Config.Params
  /-- R0 to R15; R14 is the active stack pointer (10_state.md R40, R43). -/
  regs : Vector Word 16
  psl : Word
  /-- KSP, ESP, SSP, USP, ISP; the active one's cell is stale (R43). -/
  spb : Vector Word 5
  ipr : Ipr
  /-- Main memory by storage cell, rising, no entry 0 (20_memory.md R140). -/
  mem : List Host.Cell
  tb : List TbEntry
  /-- Changes to the memory map and to page tables that TBIA has not made good, latest first (70_reset_and_hazards.md
  R1281). -/
  mapLog : List MapChange
  /-- Bytes overwritten since the last synchronising event, latest first (20_memory.md R229). -/
  stale : List Overwritten
  /-- Bytes at virtual addresses fetched through a map that was changed since the last synchronising event, latest first
  (70_reset_and_hazards.md R1284). -/
  prefetched : List Host.Cell
  run : RunState
  console : Console
  bus : Bus
  errs : Errors
  /-- What left the machine, latest first. -/
  outputs : List Output
  /-- Number of free values drawn so far. -/
  free : Nat
  /-- The turns to come; when it is empty the CPU moves. -/
  agenda : List Turn
  deriving DecidableEq, Repr

/-- A controller after a cold start, its starting address from the jumpers (64_memory_controller.md R874, R895). -/
def MemCtlState.reset (c : Config.MemCtl) : MemCtlState where
  power := 1
  interleave := false
  start := c.start
  initStatus := 3
  diag := 0

/-- A UNIBUS adapter after power-up (65_uba.md R981). -/
def UbaState.reset : UbaState where
  adPdn := false
  adPup := true
  ubInit := false
  ubPdn := false
  ubic := true
  uacr := 4
  uasr := 0
  dcrSpare := false
  dintr := false
  fmer := 0
  fubar := 0
  brsvr := Vector.replicate 4 0
  dpr := Vector.replicate 16 DataPath.empty
  map := []
  brs := []
  datip := none
  ddpLock := false
  hold := none
  pb := false
  posted := []
  late := false
  phase := .ready

/-- A MASSBUS adapter after power-up (66_mba.md R1050). -/
def MbaState.reset : MbaState where
  pd := false
  pu := true
  ie := true
  abort := false
  sr := 0
  var := 0
  bcr := 0
  map := []
  attn := 0
  commanded := none
  transfer := none
  first := false
  aborting := false
  counted := false
  massCounted := false
  silo := []

/-- The SBI after power-up (70_reset_and_hazards.md R1263). -/
def Bus.reset (p : Config.Params) : Bus where
  memctls := p.memctls.map MemCtlState.reset
  ubas := p.ubas.map fun _ => UbaState.reset
  mbas := p.mbas.map fun _ => MbaState.reset
  intlk := false

/-- No error; Register C is 0 (64_memory_controller.md R895). -/
def Errors.reset (p : Config.Params) : Errors := ⟨[], p.memctls.map fun _ => 0, 0⟩

/-- The processor registers at bootstrap (70_reset_and_hazards.md R1261); those the spec leaves UNPREDICTABLE are 0
(DESIGN CHOICE, log 2). -/
def Ipr.reset (p : Config.Params) : Ipr where
  p0br := 0
  p0lr := 0
  p1br := 0
  p1lr := 0
  sbr := 0
  slr := 0
  pcbb := 0
  scbb := 0
  astlvl := 4
  sisr := 0
  iccs := ⟨false, false, false, false⟩
  nicr := 0
  icr := 0
  todr := 0
  rxDone := false
  rxIe := false
  rxdb := 0
  txRdy := true
  txIe := false
  txdb := 0
  accsEnb := p.fpaPresent
  accrTrap := 0
  wcsAddr := 0
  wcsCtr := 0
  wcsPin := false
  wcs := []
  sbifs := 0
  sbisc := 0
  sbimt := 0
  sbier := 0
  sbita := 0
  mapen := false
  mbrk := 0
  pme := false
  rxReq := false
  txReq := false
  timerReq := false
  powerReq := false

/-- The bus resets that power-up sends out, latest first: UNIBUS INIT and MASSBUS INIT of every adapter (70_reset_and_hazards.md
R1260). Their order is the model's (DESIGN CHOICE, log 6). -/
def powerUpOutputs (p : Config.Params) : List Output :=
  (List.range p.mbas.length).reverse.map .massbusInit ++ (List.range p.ubas.length).reverse.map .unibusInit

/-- The console after power-up: in console command mode, the CPU halted (62_console.md R741, log 19). -/
def Console.reset : Console where
  programIo := false
  stepMode := .none
  relocation := 0
  hexRadix := true
  space := .physical
  length := .long
  somm := false
  switch := .normal
  dx1 := false
  clock := .normal
  fill := 0
  lastSpace := .physical
  lastAddr := 0
  lastLength := .long
  lastData := 0

/-- DESIGN CHOICE (log 1). The value of the five stack pointers at reset, which the spec leaves UNPREDICTABLE: the middle
of the default configuration's memory, since a stack cannot lie in I/O space (20_memory.md R230). -/
def resetSp : Word := 0x00080000

/-- R0 to R15 at reset: R14 as resetSp, the others 0 (DESIGN CHOICE, log 1). -/
def resetRegs : Vector Word 16 := (Vector.replicate 16 0).set 14 resetSp

/-- The machine of a configuration right after power-up: halted in the console wait loop (70_reset_and_hazards.md
R1261 to R1263). -/
def State.resetOf (p : Config.Params) : State where
  cfg := p
  regs := resetRegs
  psl := 0x041F0000
  spb := Vector.replicate 5 resetSp
  ipr := Ipr.reset p
  mem := []
  tb := []
  mapLog := []
  stale := []
  prefetched := []
  run := ⟨true, .initial, false, none⟩
  console := Console.reset
  bus := Bus.reset p
  errs := Errors.reset p
  outputs := powerUpOutputs p
  free := 0
  agenda := []

/-- The machine right after reset, with the default configuration (log 4). -/
def State.reset : State := State.resetOf Config.Params.default

end Sys2Proof.Machine
end

