-- ==== Sys2Proof/Machine/Monad.lean ====
section
/-! DEFINITION. The effects of a computation of the CPU: a state, and the events that end it early. -/
namespace Sys2Proof.Machine
open Sys2Proof

/-- What ends a computation before its end. -/
inductive Trap where
  /-- A fault through the SCB vector at the offset, with its parameters in the order pushed (60_exceptions.md R1151). -/
  | fault (vec : Nat) (params : List Word)
  /-- An abort: the registers stay as they are (R1151). -/
  | abort (vec : Nat) (params : List Word)
  /-- A machine check: nothing responds at a physical address (20_memory.md R169, R1206). -/
  | machineCheck (pa : Nat)
  /-- A machine check: a read brought a Read Data Substitute (20_memory.md R235; 65_uba.md R914). -/
  | readData
  /-- The processor halts. -/
  | halt (why : HaltReason)
  /-- The model has no successor. -/
  | refuse (r : Refusal)
  /-- The SBI interlock, or the UNIBUS, is held by another agent: the instruction waits (64_memory_controller.md R870;
  65_uba.md R901). -/
  | wait
  deriving DecidableEq, Repr

/-- A computation of the CPU. -/
abbrev M (α : Type) := EStateM Trap State α

/-- End the computation. -/
def raise {α : Type} (t : Trap) : M α := throw t

/-- Reserved operand fault, vector 18 (60_exceptions.md R1212). -/
def reservedOperand {α : Type} : M α := raise (.fault 0x18 [])

/-- Reserved addressing mode fault, vector 1C (R1213). -/
def reservedAddressing {α : Type} : M α := raise (.fault 0x1C [])

/-- Reserved or privileged instruction fault, vector 10 (R1210). -/
def reservedInstruction {α : Type} : M α := raise (.fault 0x10 [])

/-- The next free value of w bits (00_scope.md R18, log 7). -/
def draw (w : Nat) : M (BitVec w) := fun s =>
  .ok ((Config.freeValue s.free).setWidth w) { s with free := s.free + 1 }

/-- The next free bit. -/
def drawBit : M Bool := do
  let b ← draw 1
  pure (b == 1)

end Sys2Proof.Machine
end

