-- ==== Sys2Proof/Machine/Memory.lean ====
section
/-! DEFINITION. Main memory: cells in canonical form, the controllers that hold them, physical references, and who answers
in I/O space
(20_memory.md R140, R150, R166; 64_memory_controller.md R865, R885). -/
namespace Sys2Proof.Machine
open Sys2Proof

/-! ### Storage cells -/

/-- DESIGN CHOICE (log 3). What a byte of main memory that nothing has written reads as. -/
def unwrittenByte : Byte := 0

/-- The byte at a storage cell. -/
def memRead : List Host.Cell → Nat → Byte
  | [], _ => unwrittenByte
  | (b, w) :: t, a => if a = b then w else if a < b then unwrittenByte else memRead t a

/-- A byte stored at a storage cell, the list kept in canonical form. -/
def memWrite : List Host.Cell → Nat → Byte → List Host.Cell
  | [], a, v => if v = unwrittenByte then [] else [(a, v)]
  | (b, w) :: t, a, v =>
    if a < b then (if v = unwrittenByte then (b, w) :: t else (a, v) :: (b, w) :: t)
    else if a = b then (if v = unwrittenByte then t else (a, v) :: t)
    else (b, w) :: memWrite t a v

/-- The canonical form: addresses strictly rising, no entry equal to what an unlisted cell reads as. -/
def Memory.wf : List Host.Cell → Bool
  | [] => true
  | [(_, v)] => v != unwrittenByte
  | (a, v) :: (b, w) :: t => v != unwrittenByte && decide (a < b) && Memory.wf ((b, w) :: t)

/-- A sparse array of longwords by number, unlisted entries 0. -/
def sparseRead : List (Nat × Word) → Nat → Word
  | [], _ => 0
  | (b, w) :: t, a => if a = b then w else sparseRead t a

/-- An entry put in a sparse array, in its place by number. -/
def sparseInsert (a : Nat) (v : Word) : List (Nat × Word) → List (Nat × Word)
  | [] => [(a, v)]
  | (b, w) :: t =>
    if a < b then (a, v) :: (b, w) :: t
    else if a = b then (a, v) :: t
    else (b, w) :: sparseInsert a v t

/-- A longword stored in a sparse array, rising, no entry 0. -/
def sparseWrite (l : List (Nat × Word)) (a : Nat) (v : Word) : List (Nat × Word) :=
  if v = 0 then l.filter (·.1 != a) else sparseInsert a v l

/-- A controller with its configuration and the number of its first storage cell. -/
structure Bank where
  cfg : Config.MemCtl
  ctl : MemCtlState
  base : Nat

/-- The controllers, their storage cells numbered one after another. -/
def banksFrom : Nat → List Config.MemCtl → List MemCtlState → List Bank
  | n, c :: cs, m :: ms => ⟨c, m, n⟩ :: banksFrom (n + c.units * 65536) cs ms
  | _, _, _ => []

/-- The controllers of a machine. -/
def State.banks (s : State) : List Bank := banksFrom 0 s.cfg.memctls s.bus.memctls

/-- First physical address of a controller (64_memory_controller.md R874). -/
def Bank.start (b : Bank) : Nat := b.ctl.start.toNat * 65536

/-- Bytes a controller holds (R860). -/
def Bank.size (b : Bank) : Nat := b.cfg.units * 65536

/-- Two controllers form an interleaved pair: contiguous TR numbers, same size and start, both bits set (R885). -/
def Bank.pairedWith (b c : Bank) : Bool :=
  b.ctl.interleave && c.ctl.interleave && (b.cfg.tr + 1 == c.cfg.tr || c.cfg.tr + 1 == b.cfg.tr) &&
    b.cfg.units == c.cfg.units && b.ctl.start == c.ctl.start

/-- The storage cell of a controller for a physical address, if it answers to it. An interleaved pair takes alternate
quadwords, the even TR the even ones (DESIGN CHOICE, log 20). -/
def Bank.cell (all : List Bank) (b : Bank) (pa : Nat) : Option Nat :=
  if all.any b.pairedWith then
    if b.start ≤ pa ∧ pa < b.start + 2 * b.size ∧ pa / 8 % 2 = b.cfg.tr % 2 then
      some (b.base + (pa - b.start) / 16 * 8 + pa % 8)
    else none
  else if b.start ≤ pa ∧ pa < b.start + b.size then some (b.base + (pa - b.start))
  else none

/-- First physical address of I/O space (20_memory.md R165). -/
def ioBase : Nat := 0x20000000

/-- The storage cell a physical address names, none where no controller answers and none in I/O space (20_memory.md R165,
R166, R169); the first controller answers where two are set to one address (log 20). -/
def State.cell (s : State) (pa : Nat) : Option Nat :=
  let all := s.banks
  if pa < ioBase then all.findSome? fun b => b.cell all pa else none

/-! ### Errors of the array -/

/-- What a read of the array brings (63_sbi.md R814): good data, corrected data (CRD), or the substitute for data (RDS). -/
inductive ReadTag where
  | good | corrected | substitute
  deriving DecidableEq, Repr

/-- The error of the quadword a storage cell lies in. -/
def State.errorAt (s : State) (c : Nat) : Option MemError := s.errs.memory.find? fun e => e.quad == c / 8

/-- The quadword a storage cell lies in is written anew, with good check bits. -/
def State.dropError (s : State) (c : Nat) : State :=
  { s with errs := { s.errs with memory := s.errs.memory.filter fun e => e.quad != c / 8 } }

/-- Some bits of the quadword a storage cell lies in go wrong; two stay two. -/
def State.addError (s : State) (c : Nat) (double : Bool) : State :=
  let two := double || (s.errorAt c).any (·.double)
  { s with errs := { s.errs with memory := ⟨c / 8, two⟩ :: (s.dropError c).errs.memory } }

/-- The controller that a storage cell belongs to, and its number. -/
def State.bankOf (s : State) (c : Nat) : Option (Bank × Nat) :=
  s.banks.zipIdx.find? fun b => decide (b.1.base ≤ c) && decide (c < b.1.base + b.1.size)

/-- Register C 27:8 for a storage cell of a controller: word, chip address, bank and card (64_memory_controller.md R876). DESIGN
CHOICE (log 16): bit 8, the word in error, is that of the longword read, whichever half the bad bit stands in. -/
def Bank.errorAddress (b : Bank) (c : Nat) : BitVec 20 :=
  let n := (c - b.base) / 4
  BitVec.ofNat 20 (if b.cfg.chip = 1 then n % 0x4000 + n / 0x4000 * 0x10000 else n)

/-- Register C after a read error: the first since the flag was cleared is kept, a later one sets High Error Rate (R876). -/
def logReadError (r : BitVec 31) (address : BitVec 20) (syndrome : Byte) : BitVec 31 :=
  if r.getLsbD 28 then setBit r 29 true
  else setBit (setField (setField r 8 address) 0 syndrome) 28 true

/-- Register C lets CRD be sent: neither Inhibit CRD nor the Error Log Request Flag is set (R876). -/
def sendsCrd (r : BitVec 31) : Bool := !r.getLsbD 30 && !r.getLsbD 28

/-- A read of the quadword a storage cell lies in (64_memory_controller.md R868, R876, R880): an error is logged in the
controller's Register C, its syndrome a free value (93_implementation_defined.md I11); a single-bit error is corrected and the
corrected data rewritten; a double-bit error stays (log 16). c is the first cell read: an extended read logs the lower longword as
the one in error (DESIGN CHOICE, log 16). -/
def State.readCell (s : State) (c : Nat) : ReadTag × State :=
  match s.errorAt c with
  | none => (.good, s)
  | some e =>
    let t := if e.double then s else s.dropError c
    match s.bankOf c with
    | none => (if e.double then .substitute else .good, t)
    | some (b, k) =>
      let r := s.errs.regC.getD k 0
      let r' := logReadError r (b.errorAddress c) ((Config.freeValue s.free).setWidth 8)
      (if e.double then .substitute else if sendsCrd r then .corrected else .good,
        { t with free := s.free + 1, errs := { t.errs with regC := s.errs.regC.set k r' } })

/-- A read of main memory at a physical address, by any agent. -/
def State.readAt (s : State) (pa : Nat) : ReadTag × State :=
  match s.cell pa with
  | none => (.good, s)
  | some c => s.readCell c

/-- The CPU received corrected data: it requests an interrupt at level 1B (64_memory_controller.md R880). -/
def State.requestCrd (s : State) : State :=
  { s with errs := { s.errs with requests := setBit s.errs.requests 3 true } }

/-! ### Bytes by physical address -/

/-- The byte of main memory at a physical address, none where nothing responds. -/
def State.memByte (s : State) (pa : Nat) : Option Byte := (s.cell pa).map (memRead s.mem)

/-- The overwritten bytes after a store over the byte old at a physical address. A store of an agent other than the CPU is seen
by every fetch issued after it: an old byte there is left only to a buffer that held it at that time (20_memory.md R229;
70_reset_and_hazards.md R1282). -/
def State.staleAfter (s : State) (agent : Bool) (pa : Nat) (old v : Byte) : List Overwritten :=
  let pc := s.regs[(15 : Fin 16)]
  let before := if agent then s.stale.map fun o => if o.pa = pa then { o with agents := pc :: o.agents } else o else s.stale
  if old = v then before else ⟨pa, old, if agent then [pc] else []⟩ :: before

/-- A byte of a storage cell overwritten, by the CPU or by another agent, the old byte remembered as one the instruction buffer may
hold. -/
def State.putByte (s : State) (agent : Bool) (pa c : Nat) (v : Byte) : State :=
  { s with mem := memWrite s.mem c v, stale := s.staleAfter agent pa (memRead s.mem c) v }

/-- A byte of a storage cell written by a masked write, which reads the quadword: a single-bit error is corrected; in a quadword
with a double-bit error the bad data is written back and the new byte is lost (64_memory_controller.md R867). -/
def State.overwrite (s : State) (agent : Bool) (pa c : Nat) (v : Byte) : State :=
  match s.errorAt c with
  | none => s.putByte agent pa c v
  | some e => if e.double then s else (s.dropError c).putByte agent pa c v

/-- A byte of main memory stored by an agent other than the CPU; nothing where no controller answers. -/
def State.setMemByte (s : State) (pa : Nat) (v : Byte) : State :=
  match s.cell pa with
  | none => s
  | some c => s.overwrite true pa c v

/-- All eight bytes of the quadword at a physical address are about to be written in one transaction, which does not read it
first (64_memory_controller.md R867; 62_console.md R757). -/
def State.renewQuad (s : State) (pa : Nat) : State :=
  match s.cell pa with
  | none => s
  | some c => s.dropError c

/-- Whether main memory answers at each of n bytes from pa. -/
def State.memPresent (s : State) (pa : Nat) : Nat → Bool
  | 0 => true
  | n + 1 => s.memPresent pa n && (s.cell (pa + n)).isSome

/-- The n bytes of main memory from pa as a little-endian value, none where some byte has no responder. -/
def State.memValue (s : State) (pa n : Nat) : Option Nat :=
  if s.memPresent pa n then some (joinBytes (fun i => (s.memByte (pa + i)).getD 0) n) else none

/-- The longword of main memory at a physical address, if memory answers. -/
def State.memLong (s : State) (pa : Nat) : Option Word := (s.memValue pa 4).map (BitVec.ofNat 32)

/-- The n low-order bytes of a value stored from pa by an agent other than the CPU. -/
def State.setMemValue (s : State) (pa v : Nat) : Nat → State
  | 0 => s
  | n + 1 => (s.setMemValue pa v n).setMemByte (pa + n) (BitVec.ofNat 8 (v / 256 ^ n))

/-- A byte of main memory stored by the CPU. -/
def cpuStoreByte (pa : Nat) (v : Byte) : M Unit := fun s =>
  match s.cell pa with
  | none => .error (.machineCheck pa) s
  | some c => .ok () (s.overwrite false pa c v)

/-- A byte of main memory read by the CPU: a Read Data Substitute is a machine check, corrected data an interrupt request
(20_memory.md R235). -/
def cpuLoadByte (pa : Nat) : M Byte := fun s =>
  match s.cell pa with
  | none => .error (.machineCheck pa) s
  | some c =>
    match s.readCell c with
    | (.substitute, t) => .error .readData t
    | (.corrected, t) => .ok (memRead s.mem c) t.requestCrd
    | (.good, t) => .ok (memRead s.mem c) t

/-- Machine check unless main memory answers at every address of a list (20_memory.md R169, D15). -/
def needMemory : List Nat → M Unit
  | [] => pure ()
  | pa :: t => do
    let s ← get
    match s.cell pa with
    | none => raise (.machineCheck pa)
    | some _ => needMemory t

/-- The bytes of main memory at a list of physical addresses, as a little-endian number. -/
def cpuLoad : List Nat → M Nat
  | [] => pure 0
  | pa :: t => do
    let b ← cpuLoadByte pa
    let r ← cpuLoad t
    pure (b.toNat + 256 * r)

/-- The low-order bytes of a number stored at a list of physical addresses, in order. -/
def cpuStore : List Nat → Nat → M Unit
  | [], _ => pure ()
  | pa :: t, v => do
    cpuStoreByte pa (BitVec.ofNat 8 v)
    cpuStore t (v / 256)

/-- The physical address of the longword a byte lies in. -/
def longOf (pa : Nat) : Nat := pa / 4 * 4

/-- The longwords that a list of addresses lies in, each once. -/
def longsOf : List Nat → List Nat
  | [] => []
  | a :: t => if (longsOf t).contains (longOf a) then longsOf t else longOf a :: longsOf t

/-- The translation buffer may hold what no reference since TBIA has shown: memory management has been on
(70_reset_and_hazards.md R1281). -/
def State.mapCached (s : State) : Bool := s.ipr.mapen || !s.mapLog.isEmpty

/-- What a store to a list of addresses does to longwords that may be valid PTEs, the last stored first. -/
def State.ptesUnder (s : State) (pas : List Nat) : List MapChange :=
  (longsOf pas).reverse.filterMap fun a =>
    match s.memLong a with
    | some w => if w.getLsbD 31 then some (.pte a w) else none
    | none => none

/-- Changes recorded for as long as the buffer may hold what stood before them (70_reset_and_hazards.md R1281; log 8). -/
def State.noteChanges (s : State) (cs : List MapChange) : State :=
  if s.mapCached then { s with mapLog := cs ++ s.mapLog } else s

/-- A store of the running program to main memory: as cpuStore, the PTEs it may change recorded. -/
def programStore (pas : List Nat) (v : Nat) : M Unit := do
  modify fun s => s.noteChanges (s.ptesUnder pas)
  cpuStore pas v

/-- PhysWrite of a longword of main memory (20_memory.md R192). -/
def physWriteLong (pa : Nat) (v : Word) : M Unit := do
  needMemory [pa, pa + 1, pa + 2, pa + 3]
  programStore [pa, pa + 1, pa + 2, pa + 3] v.toNat

/-! ### I/O space -/

/-- The unit of a list with property p, with its number. -/
def findUnit {α β : Type} (p : α → Bool) : Nat → List α → List β → Option (Nat × α × β)
  | n, c :: cs, u :: us => if p c then some (n, c, u) else findUnit p (n + 1) cs us
  | _, _, _ => none

/-- Who answers in I/O space (20_memory.md R167, R168). -/
inductive Responder where
  | memCtl (n : Nat) (c : Config.MemCtl) (m : MemCtlState)
  | ubaReg (n : Nat) (c : Config.Uba) (u : UbaState)
  | mba (n : Nat) (c : Config.Mba) (m : MbaState)
  | unibus (n : Nat) (c : Config.Uba) (u : UbaState)

/-- The NEXUS of a TR number (R167). -/
def State.nexus (s : State) (tr : Nat) : Option Responder :=
  match findUnit (·.tr == tr) 0 s.cfg.memctls s.bus.memctls with
  | some (n, c, m) => some (.memCtl n c m)
  | none =>
    match findUnit (·.tr == tr) 0 s.cfg.ubas s.bus.ubas with
    | some (n, c, u) => some (.ubaReg n c u)
    | none => (findUnit (·.tr == tr) 0 s.cfg.mbas s.bus.mbas).map fun x => .mba x.1 x.2.1 x.2.2

/-- The responder of a physical address of I/O space and the offset in its block or window (R167, R168, R169). -/
def State.responder (s : State) (pa : Nat) : Option (Responder × Nat) :=
  if pa < 0x20020000 then (s.nexus ((pa - ioBase) / 0x2000)).map fun r => (r, (pa - ioBase) % 0x2000)
  else if 0x20100000 ≤ pa ∧ pa < 0x20200000 then
    (findUnit (·.num == (pa - 0x20100000) / 0x40000) 0 s.cfg.ubas s.bus.ubas).map fun x =>
      (.unibus x.1 x.2.1 x.2.2, (pa - 0x20100000) % 0x40000)
  else none

/-- The longword of the bootstrap ROM at an offset of a controller's block, if the controller answers there
(64_memory_controller.md R890, R891). -/
def State.romLong (s : State) (c : Config.MemCtl) (off : Nat) : Option Word :=
  if c.rom ∧ 0x1000 ≤ off then s.cfg.bootRom[(off - 0x1000) / 4]? else none

/-- A responder has a register, a ROM longword or a UNIBUS address at an offset; elsewhere in its block nothing responds
(64_memory_controller.md R877; 65_uba.md R920; 66_mba.md R1003). -/
def State.answersAt (s : State) (off : Nat) : Responder → Bool
  | .memCtl _ c _ => decide (off < 0xC) || (s.romLong c (off / 4 * 4)).isSome
  | .ubaReg _ _ _ => decide (off < 0x80) || (decide (0x800 ≤ off) && decide (off < 0xFC0))
  | .mba _ _ _ => decide (off < 0x20) || (decide (0x400 ≤ off) && decide (off < 0xC00))
  | .unibus _ _ _ => true

/-- Somebody in I/O space answers at a physical address. -/
def State.answers (s : State) (pa : Nat) : Bool :=
  decide (ioBase ≤ pa) && (s.responder pa).any fun r => s.answersAt r.2 r.1

/-- Somebody in I/O space answers an extended transfer, with an error confirmation: no NEXUS register and no UNIBUS address
takes one (65_uba.md R911; 63_sbi.md R828). DESIGN CHOICE (log 27): nor does a memory controller's register or ROM. -/
def State.refusesQuad (s : State) (pa : Nat) : Bool := s.answers pa

/-- UASR's bit for an SBI transaction at a physical address that failed: ERR, CXTER, where somebody answers, else no response,
CXTO (65_uba.md R937, R942). -/
def State.failBit (s : State) (pa : Nat) : Nat := if s.answers pa then 7 else 6

end Sys2Proof.Machine
end

