-- ==== Sys2Proof/Machine/Unibus.lean ====
section
/-! DEFINITION. The UNIBUS adapters: registers, CPU access to UNIBUS space, DMA and interrupts (65_uba.md). -/
namespace Sys2Proof.Machine
open Sys2Proof

/-- CNFGR, without the fault bits, which stay 0 (R940). -/
def UbaState.cnfgr (u : UbaState) (num : Nat) : Word :=
  bitAt 23 u.adPdn ||| bitAt 22 u.adPup ||| bitAt 18 u.ubInit ||| bitAt 17 u.ubPdn ||| bitAt 16 u.ubic |||
    BitVec.ofNat 32 (0x28 + num)

/-- The adapter's own interrupt condition (R960). -/
def UbaState.adapterRequest (u : UbaState) : Bool :=
  (u.uacr.getLsbD 2 && (u.adPdn || u.adPup || u.ubInit || u.ubPdn || u.ubic)) ||
  (u.uacr.getLsbD 4 && (u.uasr &&& 0x6F8) != 0) ||
  (u.uacr.getLsbD 3 && (u.uasr &&& 0x003) != 0)

/-- Some device asserts BR level and DCR DINTR does not hide it (R943, R960). -/
def UbaState.brAsserted (u : UbaState) (level : Nat) : Bool :=
  !u.dintr && u.brs.any fun r => r.level == level

/-- The adapter asserts SBI request level for devices or for itself (R960). -/
def UbaState.requests (u : UbaState) (c : Config.Uba) (level : Nat) : Bool :=
  (u.uacr.getLsbD 6 && u.uacr.getLsbD 5 && u.brAsserted level) || (c.level == level && u.adapterRequest)

/-- Whether a device of the adapter answers at a UNIBUS address (R904). -/
def ubaOwns (c : Config.Uba) (ua : BitVec 18) : Bool := c.devices.any fun d => d.contains (ua.toNat / 2 * 2)

/-- A request asserted among those asserted: the electrically closest device stands first (R902). -/
def insertRequest (r : BrRequest) : List BrRequest → List BrRequest
  | [] => [r]
  | q :: qs => if r.device < q.device then r :: q :: qs else q :: insertRequest r qs

/-- Adapter n replaced. -/
def State.setUba (s : State) (n : Nat) (u : UbaState) : State :=
  { s with bus := { s.bus with ubas := s.bus.ubas.set n u } }

/-- Adapter n replaced, in a computation. -/
def putUba (n : Nat) (u : UbaState) : M Unit := modify fun s => s.setUba n u

/-- Adapter n changed by f. -/
def State.onUba (s : State) (n : Nat) (f : UbaState → UbaState) : State :=
  { s with bus := { s.bus with ubas := s.bus.ubas.modify n f } }

/-- The adapter's flip-flop, where commander c has set it, handed to another commander, or cleared. -/
def UbaState.handDatip (c : Commander) (d : Option Commander) (u : UbaState) : UbaState :=
  if u.datip = some c then { u with datip := d } else u

/-- Every flip-flop that commander c has set handed to another, or cleared (65_uba.md R913). -/
def State.handDatip (s : State) (c : Commander) (d : Option Commander) : State :=
  { s with bus := { s.bus with ubas := s.bus.ubas.map (·.handDatip c d) } }

/-- The CPU's interlocked sequence is over: it leaves no flip-flop set (10_state.md R121; 65_uba.md R913). -/
def State.endDatip (s : State) : State := s.handDatip .cpu none

/-- What leaves the machine, recorded. -/
def State.emit (s : State) (o : Output) : State := { s with outputs := o :: s.outputs }

/-- What leaves the machine, recorded, in a computation. -/
def emit (o : Output) : M Unit := modify fun s => s.emit o

/-- An error of a DMA transfer through map register m, with its UASR bit: recorded unless the field is locked, in which
case only LEB is set (R942). -/
def UbaState.dmaError (u : UbaState) (m : Nat) (bit : Nat) : UbaState :=
  if u.uasr &&& 0x6F8 ≠ 0 then { u with uasr := setBit u.uasr 2 true }
  else { u with uasr := setBit u.uasr bit true, fmer := BitVec.ofNat 9 m }

/-- A CPU transfer that fails with an error bit of UASR, and FUBAR unless it is locked (R914, R942). -/
def UbaState.cpuError (bit : Nat) (u : UbaState) (ua : BitVec 18) : UbaState :=
  { u with
    fubar := if u.uasr &&& 3 = 0 then ua.extractLsb' 2 16 else u.fubar
    uasr := setBit u.uasr bit true }

/-- The UNIBUS goes down and starts its initialization sequence (R980, R982). DESIGN CHOICE (log 49): the CPU's writes that the
adapter has acknowledged and not yet made are dropped, with no error bit and nothing sent to a device. -/
def UbaState.startUnibusInit (u : UbaState) (ph : UbaPhase) : UbaState :=
  { u with ubInit := true, ubPdn := true, ubic := false, datip := none, ddpLock := false, hold := none, pb := false,
           posted := [], late := false, brs := [], phase := ph }

/-- Adapter INIT (R980). -/
def UbaState.adapterInit (u : UbaState) : UbaState :=
  { u with uacr := 0, uasr := 0, dcrSpare := false, dintr := false, brsvr := Vector.replicate 4 0,
           dpr := Vector.replicate 16 DataPath.empty, map := [] }.startUnibusInit .adapterInit

/-- SBI UNJAM at the adapter (R982; 63_sbi.md R840). DESIGN CHOICE (log 49): an adapter INIT that is still running goes on,
and the UNIBUS sequence that follows it is the one UNJAM asks for. -/
def UbaState.unjam (u : UbaState) : UbaState :=
  { u with uacr := u.uacr &&& 0xFFFFFFC3 }.startUnibusInit
    (if u.phase = UbaPhase.adapterInit then UbaPhase.adapterInit else UbaPhase.unibusInit)

/-- The interlock that a device of adapter n holds between its DATIP and its DATO is released: the bus-wide one, and the flip-flop
of another UNIBUS (R913, R931). -/
def State.releaseInterlock (s : State) (n : Nat) : State :=
  let s := s.handDatip (.adapter n) none
  match s.bus.ubas[n]? with
  | some u => if u.ddpLock then { s with bus := { s.bus with intlk := false } } else s
  | none => s

/-- The adapter's registers after a power failure of the UNIBUS starts at adapter n. -/
def State.startUba (s : State) (n : Nat) (u : UbaState) : State :=
  ((s.releaseInterlock n).setUba n u).emit (.unibusInit n)

/-- Data Path Register d as it reads (R947). -/
def DataPath.word (p : DataPath) : Word :=
  bitAt 31 p.bne ||| bitAt 30 p.bte ||| bitAt 29 p.dpf ||| (p.bs.setWidth 32 <<< 16) ||| p.buba.setWidth 32

/-- The map register of a UNIBUS address (R930). -/
def UbaState.mapOf (u : UbaState) (ua : BitVec 18) : Word := sparseRead u.map (ua.toNat / 512)

/-- The physical address a map register gives for a UNIBUS address (R930). -/
def mapPa (mr : Word) (ua : BitVec 18) : Nat := (mr.setWidth 21).toNat * 512 + ua.toNat % 512

/-- The bytes of an eight-byte buffer that a mask selects, stored from the physical address pa (63_sbi.md R825). -/
def storeMasked (s : State) (pa : Nat) (data : BitVec 64) (mask : Byte) : Nat → State
  | 0 => s
  | n + 1 =>
    let s := storeMasked s pa data mask n
    if mask.getLsbD n then s.setMemByte (pa + n) (byteOf data n) else s

/-- A masked write of an adapter; one of all eight bytes of a quadword does not read it first (64_memory_controller.md R867). -/
def storeQuad (s : State) (pa : Nat) (data : BitVec 64) (mask : Byte) (n : Nat) : State :=
  storeMasked (if n = 8 ∧ mask = 0xFF then s.renewQuad pa else s) pa data mask n

/-- The full bytes of path d written to n8 bytes of memory from pa in one masked transaction, the path left as after; when
nobody takes it, or an adapter answers ERR, BTE and the error bits are set (R932, R934, R937). -/
def writePath (s : State) (n : Nat) (u : UbaState) (d : Fin 16) (pa n8 m : Nat) (after : DataPath) :
    State × UbaState × Bool :=
  let p := u.dpr[d]
  if s.memPresent pa n8 then
    let u := { u with dpr := u.dpr.set d after }
    ((storeQuad s pa p.data p.bs n8).setUba n u, u, true)
  else
    let u := { u with dpr := u.dpr.set d { after with bte := true } }.dmaError m (if s.refusesQuad pa then 7 else 6)
    (s.setUba n u, u, false)

/-- The automatic write of the quadword that path d holds, for a device at map register m: BS and BNE are cleared (R932). -/
def flushPath (s : State) (n : Nat) (u : UbaState) (d : Fin 16) (m : Nat) : State × UbaState × Bool :=
  let p := u.dpr[d]
  writePath s n u d (p.held.toNat * 8) 8 m { p with bne := false, bs := 0 }

/-! ### CPU access to UNIBUS space -/

/-- A byte mask that UNIBUS space takes (R911). -/
def unibusMask (mask : BitVec 4) : Bool := mask == 1 || mask == 2 || mask == 4 || mask == 8 || mask == 3 || mask == 0xC

/-- The UNIBUS address of a longword offset and a mask: UA 1:0 come from the mask (R910, R911). -/
def unibusAddr (off : Nat) (mask : BitVec 4) : BitVec 18 :=
  BitVec.ofNat 18 (off + (if mask == 2 then 1 else if mask == 4 || mask == 0xC then 2 else if mask == 8 then 3 else 0))

/-- What a write puts on the UNIBUS of adapter n: DATO or DATOB (R911). -/
def PostedWrite.output (n : Nat) (p : PostedWrite) : Output :=
  if p.word then .unibusWord n p.addr p.data else .unibusByte n p.addr (p.data.setWidth 8)

/-- One of the CPU's writes made on the UNIBUS of adapter n; the outputs come latest first. A write that no device takes is
reported as UBSSYNTO, one that finds the UNIBUS held by a device for 50 microseconds as UBSTO (R912, R914, R942). -/
def makePosted (n : Nat) (c : Config.Uba) (x : UbaState × List Output) (p : PostedWrite) : UbaState × List Output :=
  let u := x.1
  if u.hold.isSome then (u.cpuError 1 p.addr, x.2)
  else if ubaOwns c p.addr then (u, p.output n :: x.2)
  else (u.cpuError 0 p.addr, x.2)

/-- The posted writes made before a transfer that follows them (R912). -/
def drainPosted (n : Nat) (c : Config.Uba) (u : UbaState) : M UbaState := do
  let x := u.posted.foldl (makePosted n c) ({ u with posted := [] }, [])
  modify fun s => { s with outputs := x.2 ++ s.outputs }
  pure x.1

/-- A CPU read in adapter n's UNIBUS window, at the longword offset off: DATI, or DATIP when interlocked, which waits for the SBI
interlock (R910 to R914; 63_sbi.md R822). It waits while a device holds the UNIBUS; when the adapter has waited too long, the
read brings 0 with UBSTO (R901, R914). A device's word is a free value (log 14); with PB it comes as a
Read Data Substitute. The interlocked read sets the flip-flop, for the CPU; a device's transaction hands it on (dmaTransfer).
DESIGN CHOICE (log 29): where the adapter holds the UNIBUS for a device of another UNIBUS, a read, interlocked or not, goes ahead at
once, and an interlocked one leaves the flip-flop that device's (63_sbi.md R822). -/
def unibusRead (n : Nat) (c : Config.Uba) (u : UbaState) (pa off : Nat) (mask : BitVec 4) (ilk : Bool) : M Word :=
  if !unibusMask mask then raise (.machineCheck pa)
  else if u.phase ≠ .ready then raise (.refuse .deviceDiscipline)
  else do
    let s ← get
    let ua : BitVec 18 := unibusAddr off mask &&& 0x3FFFE
    if (ilk && s.bus.intlk) || (u.hold.isSome && !u.late) then raise .wait
    else do
      let u ← drainPosted n c u
      let u := { u with datip := if ilk && u.datip.isNone then some .cpu else u.datip }
      if u.hold.isSome then do
        putUba n { u.cpuError 1 ua with late := false }
        pure 0
      else if ubaOwns c ua then do
        putUba n { u with pb := false }
        emit (.unibusRead n ua)
        if u.pb then raise .readData
        else do
          let v ← draw 16
          pure (v.setWidth 32 <<< (8 * (ua.toNat % 4)))
      else do
        putUba n (u.cpuError 0 ua)
        pure 0

/-- A CPU write in adapter n's UNIBUS window: DATO or DATOB, acknowledged now and made on the UNIBUS later, in order (R911,
R912, R914). An interlocked write with no interlocked read before it is refused (R913, R940, D33). DESIGN CHOICE (log 29): the CPU's
interlocked write passes also on the flip-flop of a device of another UNIBUS, which it leaves set. -/
def unibusWrite (n : Nat) (u : UbaState) (pa off : Nat) (mask : BitVec 4) (ilk : Bool) (v : Word) : M Unit :=
  if !unibusMask mask then raise (.machineCheck pa)
  else if u.phase ≠ .ready ∨ (ilk ∧ u.datip.isNone) then raise (.refuse .deviceDiscipline)
  else
    let ua := unibusAddr off mask
    let data : BitVec 16 := (v >>> (8 * (ua.toNat % 4))).setWidth 16
    putUba n { u with posted := u.posted ++ [⟨ua, data, mask == 3 || mask == 0xC, ilk⟩] }

/-! ### Purging a data path -/

/-- The UNIBUS address that BUBA of path d stands for (R947). -/
def UbaState.bubaAddr (u : UbaState) (d : Fin 16) : BitVec 18 := u.dpr[d].buba.setWidth 18 <<< 2

/-- The longword, or quadword, of physical memory that BUBA of path d maps to at the purge, through MR[BUBA<15:7>] (R934, R935). -/
def UbaState.purgePa (u : UbaState) (d : Fin 16) : Nat :=
  let ua := u.bubaAddr d
  let mr := u.mapOf ua
  if mr.getLsbD 26 then mapPa mr ua / 4 * 4 else mapPa mr ua / 8 * 8

/-- A masked write of part of a longword in I/O space by an adapter: UNIBUS space takes it; the register blocks of memory
controllers and MASSBUS adapters are longwords only, a part of one being refused (64_memory_controller.md R877; 66_mba.md
R1003), and a UNIBUS adapter's register answers ERR (R921). -/
def partialIoWrite (pa : Nat) (mask : BitVec 4) (v : Word) : M Unit := do
  let s ← get
  match s.responder pa with
  | some (.unibus n _ u, off) => unibusWrite n u pa off mask false v
  | some (.memCtl _ _ _, off) =>
    if off < 0xC then raise (.refuse .deviceDiscipline) else raise (.machineCheck pa)
  | some (.mba n c m, off) =>
    if s.answersAt off (.mba n c m) then raise (.refuse .deviceDiscipline) else raise (.machineCheck pa)
  | _ => raise (.machineCheck pa)

/-- The bytes left in path d written by one masked write at the longword pa of I/O space (R934, R936), the path left as after. -/
def purgeToIo (n : Nat) (u : UbaState) (d : Fin 16) (pa m : Nat) (after : DataPath) : M Unit := do
  putUba n { u with dpr := u.dpr.set d after }
  tryCatch (partialIoWrite pa (u.dpr[d].bs.setWidth 4) (u.dpr[d].data.setWidth 32)) fun t =>
    match t with
    | .refuse r => raise (.refuse r)
    | _ => modify fun s =>
      s.onUba n fun u => { u with dpr := u.dpr.set d { after with bte := true } }.dmaError m (s.failBit pa)

/-- A purge of data path d (R934). Bytes that came in one of the modes of R932 and R936 and that the map register now sends in the
other are refused: the map was changed before the purge (D33). DESIGN CHOICE (log 27): BUBA stays as it was, and a map register that
UACR MRD disables maps a purge as any other: R930 (2) and R941 speak of the transfers of devices. -/
def purgePath (n : Nat) (u : UbaState) (d : Fin 16) : M Unit :=
  let p := u.dpr[d]
  let emptied := { p with bne := false, dpf := false, bs := 0 }
  let mr := u.mapOf (u.bubaAddr d)
  let m := (u.bubaAddr d).toNat / 512
  let pa := u.purgePa d
  if d = 0 ∨ !p.bne then pure ()
  else if !p.dpf then putUba n { u with dpr := u.dpr.set d { p with bne := false } }
  else if !mr.getLsbD 31 then putUba n ({ u with dpr := u.dpr.set d { emptied with bte := true } }.dmaError m 4)
  else if p.long != mr.getLsbD 26 then raise (.refuse .deviceDiscipline)
  else if mr.getLsbD 26 ∧ ioBase ≤ pa then purgeToIo n u d pa m emptied
  else modify fun s => (writePath s n u d pa (if mr.getLsbD 26 then 4 else 8) m emptied).1

/-! ### Registers -/

/-- Reading BRRVR level: the grant, and the vector it brings (R961). DESIGN CHOICE (log 29): the grant comes at once, also while a
device, or the CPU, holds the UNIBUS between its DATIP and its DATO, and before the writes that are posted. -/
def readBrrvr (n : Nat) (c : Config.Uba) (u : UbaState) (level : Nat) : M Word := do
  let flag := bitAt 31 (c.level == level && u.adapterRequest)
  if u.uacr.getLsbD 6 && u.brAsserted level && u.phase == .ready then
    match u.brs.find? fun r => r.level == level with
    | none => pure flag
    | some r => do
      putUba n { u with brs := u.brs.erase r }
      pure (flag ||| r.vector.setWidth 32)
  else pure flag

/-- A CPU read of a register of adapter n, at the longword offset off; any byte mask is answered (R920, R921). DESIGN CHOICE (log
49): MIC OK, DCR 27, is 1 again as soon as adapter INIT has ended, while the UNIBUS sequence of R980 still runs: R943 says once
initialization is complete, and R980 has two ends. -/
def ubaRegRead (n : Nat) (c : Config.Uba) (u : UbaState) (pa off : Nat) : M Word :=
  if u.phase = .adapterInit ∧ off ≠ 0 ∧ off ≠ 0xC then raise (.refuse .deviceDiscipline)
  else if off = 0 then pure (u.cnfgr c.num)
  else if off = 4 then pure u.uacr
  else if off = 8 then pure (u.uasr.setWidth 32)
  else if off = 0xC then
    pure (bitAt 31 u.dcrSpare ||| bitAt 30 u.dintr ||| bitAt 27 (u.phase != .adapterInit) |||
      (u.cnfgr c.num &&& 0x00FFFFFF))
  else if off = 0x10 ∨ off = 0x18 then pure (u.fmer.setWidth 32)
  else if off = 0x14 ∨ off = 0x1C then pure (u.fubar.setWidth 32)
  else if off < 0x30 then pure ((u.brsvr[(off - 0x20) / 4]?.getD 0).setWidth 32)
  else if off < 0x40 then readBrrvr n c u (4 + (off - 0x30) / 4)
  else if off < 0x80 then pure (u.dpr[(off - 0x40) / 4]?.getD .empty).word
  else if 0x800 ≤ off ∧ off < 0xFC0 then pure (sparseRead u.map ((off - 0x800) / 4))
  else raise (.machineCheck pa)

/-- UACR written (R941): ADINIT initializes; UPF going to 1 takes the UNIBUS down. DESIGN CHOICE (log 49): UPF written 1 while adapter
INIT runs is stored and does nothing else, since the UNIBUS is down already: UB PDN is not set again and no INIT is sent (R982). -/
def writeUacr (n : Nat) (u : UbaState) (v : Word) : M Unit :=
  if v.getLsbD 0 then modify fun s => s.startUba n u.adapterInit
  else
    let w := { u with uacr := v &&& 0x7C00007E }
    if v.getLsbD 1 ∧ !u.uacr.getLsbD 1 ∧ u.phase ≠ .adapterInit then
      modify fun s => s.startUba n (w.startUnibusInit .unibusInit)
    else putUba n w

/-- AC LO of the adapter's power supply deasserted, or asserted (R940). -/
def UbaState.acLo (up : Bool) (u : UbaState) : UbaState := { u with adPdn := !up, adPup := up }

/-- A CPU write of a register of adapter n. Only longwords are taken: another mask gets ERR (R921, D33). DESIGN CHOICE (log 29):
ones written to DCR 23:16, which read as CNFGR's, clear nothing (R943). DESIGN CHOICE (log 27): a write of DPR with bits 31 and 30
clears BTE first and purges then, so that a purge that fails leaves BTE 1 (R947). -/
def ubaRegWrite (n : Nat) (u : UbaState) (pa off : Nat) (mask : BitVec 4) (v : Word) : M Unit :=
  if mask ≠ 0xF then raise (.machineCheck pa)
  else if u.phase = .adapterInit ∧ off ≠ 0 ∧ off ≠ 4 ∧ off ≠ 0xC then raise (.refuse .deviceDiscipline)
  else if off = 0 then
    putUba n { u with
      adPdn := u.adPdn && !v.getLsbD 23
      adPup := u.adPup && !v.getLsbD 22
      ubInit := u.ubInit && !v.getLsbD 18
      ubPdn := u.ubPdn && !v.getLsbD 17
      ubic := u.ubic && !v.getLsbD 16 }
  else if off = 4 then writeUacr n u v
  else if off = 8 then putUba n { u with uasr := u.uasr &&& ~~~(v.setWidth 11) }
  else if off = 0xC then
    if v.getLsbD 29 ∨ v.getLsbD 28 then raise (.refuse .deviceDiscipline)
    else putUba n { u with dcrSpare := v.getLsbD 31, dintr := v.getLsbD 30 }
  else if off < 0x20 then raise (.machineCheck pa)
  else if h : off < 0x30 ∧ 0x20 ≤ off then
    putUba n { u with brsvr := u.brsvr.set ((off - 0x20) / 4) (v.setWidth 16) (by omega) }
  else if off < 0x40 then raise (.machineCheck pa)
  else if h : off < 0x80 ∧ 0x40 ≤ off then do
    let d : Fin 16 := ⟨(off - 0x40) / 4, by omega⟩
    let u := if d ≠ 0 ∧ v.getLsbD 30 then { u with dpr := u.dpr.set d { u.dpr[d] with bte := false } } else u
    putUba n u
    if v.getLsbD 31 then purgePath n u d else pure ()
  else if 0x800 ≤ off ∧ off < 0xFC0 then
    putUba n { u with map := sparseWrite u.map ((off - 0x800) / 4) v }
  else raise (.machineCheck pa)

end Sys2Proof.Machine
end

