-- ==== Sys2Proof/Machine/Massbus.lean ====
section
/-! DEFINITION. The MASSBUS adapters: registers and the data transfer (66_mba.md). -/
namespace Sys2Proof.Machine
open Sys2Proof

/-- SR as it reads: ATTN follows the attention lines (R1012, R1032). -/
def MbaState.status (m : MbaState) : Word := m.sr ||| bitAt 16 (m.attn != 0)

/-- A data transfer is in progress (R1012). -/
def MbaState.busy (m : MbaState) : Bool := m.sr.getLsbD 31

/-- The adapter's interrupt request: bits 19, 18, 17, 16, 13, 12, 8 of SR under IE, or CSR PD or PU (R1032). -/
def MbaState.request (m : MbaState) : Bool := (m.ie && (m.status &&& 0x000F3100) != 0) || m.pd || m.pu

/-- The adapter asserts SBI request level (R1032). -/
def MbaState.requests (m : MbaState) (c : Config.Mba) (level : Nat) : Bool := c.level == level && m.request

/-- Adapter n replaced. -/
def State.setMba (s : State) (n : Nat) (m : MbaState) : State :=
  { s with bus := { s.bus with mbas := s.bus.mbas.set n m } }

/-- Adapter n replaced, in a computation. -/
def putMba (n : Nat) (m : MbaState) : M Unit := modify fun s => s.setMba n m

/-- A bit of SR set. -/
def MbaState.setSr (m : MbaState) (bit : Nat) : MbaState := { m with sr := setBit m.sr bit true }

/-- An error that aborts the transfer (R1012). -/
def MbaState.abortWith (m : MbaState) (bit : Nat) : MbaState := { m.setSr bit with aborting := true }

/-- The transfer ends: DTBUSY off, DT CMP on, DTABT when it was aborted (R1041). -/
def MbaState.finish (m : MbaState) (aborted : Bool) : MbaState :=
  { m with sr := setBit (setBit m.sr 31 false ||| bitAt 12 aborted) 13 true
           transfer := none, first := false, aborting := false, counted := false, massCounted := false, silo := [] }

/-- AC LO deasserted, or asserted: PU, with IE, or PD; the one resets PU, the other leaves PD (R1010). -/
def MbaState.acLo (up : Bool) (m : MbaState) : MbaState :=
  if up then { m with pu := true, ie := true } else { m with pd := true, pu := false }

/-- CR INIT (R1011). DESIGN CHOICE (log 28): the ATTN lines of the drives that it resets stay until a turn of the drive changes them
(R1002). -/
def MbaState.init (m : MbaState) : MbaState :=
  { m with pd := false, pu := false, ie := false, abort := false, sr := 0, bcr := 0, commanded := none
           transfer := none, first := false, aborting := false, counted := false, massCounted := false, silo := [] }

/-- Bytes still to move over the SBI (R1014): the counter 31:16 counts up to 0, and 0 at the start is 65536. -/
def MbaState.remaining (m : MbaState) : Nat := 65536 - m.bcr.toNat / 65536

/-- Bytes still to move over the MASSBUS (R1014; 90_conflicts.md C46). -/
def MbaState.massRemaining (m : MbaState) : Nat := if m.massCounted then 0 else 65536 - m.bcr.toNat % 65536

/-- Byte offset in its quadword of the next byte to move: VAR's at the first transaction, 0 later (R1013, R1041). -/
def MbaState.quadOffset (m : MbaState) : Nat := if m.first then m.var.toNat % 8 else 0

/-- The map register VAR selects (R1013). -/
def MbaState.mapReg (m : MbaState) : Word := sparseRead m.map (m.var.toNat / 512 % 256)

/-- The quadword's physical address (R1013). -/
def MbaState.quadPa (m : MbaState) : Nat := (m.mapReg.setWidth 21).toNat * 512 + m.var.toNat % 512 / 8 * 8

/-- The command and address longword of the next transaction (R1016; 63_sbi.md R812, R824, R825). DESIGN CHOICE (log 28): its bit A00,
which the receiver of an extended transfer ignores, is 0, whatever bit 2 of VAR. -/
def MbaState.commandAddress (m : MbaState) : Word :=
  BitVec.ofNat 32 ((if m.transfer = some .read then 0xB0000000 else 0x80000000) + m.quadPa / 4)

/-- The drive of a unit number that answers for a register (R1002, R1031). -/
def mbaDrive (c : Config.Mba) (unit reg : Nat) : Option Config.Drive :=
  c.drives.find? fun d => d.unit == unit && d.regs.contains reg

/-- The data transfer that a register value commands the drive to make, if any (R1002). -/
def driveCommand (d : Config.Drive) (reg : Nat) (v : BitVec 16) : Option Config.MbaTransfer :=
  (d.commands.find? fun x => x.reg == reg && x.value == v).map (·.kind)

/-- A CPU read in adapter n's block (R1003, R1010 to R1017, R1031). A drive's word is a free value (log 15). -/
def mbaRead (n : Nat) (c : Config.Mba) (m : MbaState) (pa off : Nat) (mask : BitVec 4) : M Word :=
  if 0xC00 ≤ off ∨ (0x20 ≤ off ∧ off < 0x400) then raise (.machineCheck pa)
  else if mask ≠ 0xF then raise (.refuse .deviceDiscipline)
  else if 0x800 ≤ off then pure (sparseRead m.map ((off - 0x800) / 4))
  else if 0x400 ≤ off then
    let unit := (off - 0x400) / 128
    let reg := off / 4 % 32
    if (mbaDrive c unit reg).isSome then do
      emit (.driveRead n (BitVec.ofNat 3 unit) (BitVec.ofNat 5 reg))
      let v ← draw 16
      pure (v.setWidth 32)
    else do
      putMba n (m.setSr 18)
      pure 0
  else if off = 0 then pure (bitAt 23 m.pd ||| bitAt 22 m.pu ||| 0x20)
  else if off = 4 then pure (bitAt 2 m.ie ||| bitAt 1 m.abort)
  else if off = 8 then pure m.status
  else if off = 0xC then pure (m.var.setWidth 32)
  else if off = 0x10 then
    if m.busy then do
      let v ← draw 16
      pure (setField m.bcr 0 v)
    else pure m.bcr
  else if off = 0x14 then raise (.refuse .deviceDiscipline)
  else if !m.busy then draw 32
  else if off = 0x18 then pure m.mapReg
  else pure m.commandAddress

/-- CR written: maintenance mode (PGE during a transfer, else refused), INIT, IE and ABORT (R1011). DESIGN CHOICE (log 28): in a
write that sets INIT and IE or ABORT together INIT wins, and both end 0; ABORT written 0 does not end an abort sequence that has
begun. -/
def writeCr (n : Nat) (m : MbaState) (v : Word) : M Unit :=
  if v.getLsbD 3 ∧ !m.busy then raise (.refuse .deviceDiscipline)
  else if v.getLsbD 0 then do
    putMba n m.init
    emit (.massbusInit n)
  else
    let m := if v.getLsbD 3 then m.setSr 19 else m
    putMba n { m with ie := v.getLsbD 2, abort := v.getLsbD 1, aborting := m.aborting || (v.getLsbD 1 && m.busy) }

/-- A register write for a drive: a data-transfer command during a transfer is not sent and sets PGE (R1002, R1031). DESIGN
CHOICE (log 28): one that comes before the drive has accepted an earlier one, DTBUSY still 0, takes the earlier one's place and
sets no PGE. -/
def driveWrite (n : Nat) (c : Config.Mba) (m : MbaState) (unit reg : Nat) (v : BitVec 16) : M Unit :=
  match mbaDrive c unit reg with
  | none => putMba n (m.setSr 18)
  | some d =>
    match driveCommand d reg v with
    | none => emit (.driveWrite n (BitVec.ofNat 3 unit) (BitVec.ofNat 5 reg) v)
    | some k =>
      if m.busy then putMba n (m.setSr 19)
      else do
        putMba n { m with commanded := some k }
        emit (.driveWrite n (BitVec.ofNat 3 unit) (BitVec.ofNat 5 reg) v)

/-- A CPU write in adapter n's block (R1003, R1010 to R1017, R1031). -/
def mbaWrite (n : Nat) (c : Config.Mba) (m : MbaState) (pa off : Nat) (mask : BitVec 4) (v : Word) : M Unit :=
  if 0xC00 ≤ off ∨ (0x20 ≤ off ∧ off < 0x400) then raise (.machineCheck pa)
  else if mask ≠ 0xF then raise (.refuse .deviceDiscipline)
  else if 0x800 ≤ off then
    putMba n (if m.busy then m.setSr 19
      else { m with map := sparseWrite m.map ((off - 0x800) / 4) (v &&& 0x801FFFFF) })
  else if 0x400 ≤ off then driveWrite n c m ((off - 0x400) / 128) (off / 4 % 32) (v.setWidth 16)
  else if off = 0 then putMba n { m with pd := m.pd && !v.getLsbD 23, pu := m.pu && !v.getLsbD 22 }
  else if off = 4 then writeCr n m v
  else if off = 8 then putMba n { m with sr := m.sr &&& ~~~(v &&& 0x600E3FFF) }
  else if off = 0xC then putMba n (if m.busy then m.setSr 19 else { m with var := v.setWidth 17 })
  else if off = 0x10 then
    putMba n (if m.busy then m.setSr 19 else { m with bcr := v.setWidth 16 ++ (v.setWidth 16 : BitVec 16) })
  else raise (.refuse .deviceDiscipline)

/-- The bytes of a quadword from offset off for n bytes, lowest address first. -/
def quadBytes (s : State) (pa off n : Nat) : List Byte :=
  (List.range n).map fun i => (s.memByte (pa + off + i)).getD 0

/-- Bytes stored at ascending physical addresses. -/
def storeBytes (s : State) (pa : Nat) : List Byte → State
  | [] => s
  | b :: bs => storeBytes (s.setMemByte pa b) (pa + 1) bs

/-- The counters after k bytes of a transaction (R1013, R1014). -/
def MbaState.advance (m : MbaState) (k : Nat) : MbaState :=
  let c := m.bcr.extractLsb' 16 16 + BitVec.ofNat 16 k
  { m with var := m.var + 8, bcr := setField m.bcr 16 c, counted := c == 0, first := false }

/-- The MASSBUS-side counter after k bytes (R1014; 90_conflicts.md C46). -/
def MbaState.massAdvance (m : MbaState) (k : Nat) : MbaState :=
  let c : BitVec 16 := m.bcr.setWidth 16 + BitVec.ofNat 16 k
  { m with bcr := setField m.bcr 0 c, massCounted := m.massCounted || c == 0 }

/-- The adapter's next SBI transaction of a transfer (R1041); none when it has none to make now. A read of memory with a
double-bit error sets RDS and aborts; one corrected sets CRD (R1012). DESIGN CHOICE (log 28): an invalid map register, or an
address where memory does not answer, is found at this turn also while the silo of a drive-to-memory transfer has not yet the
bytes to write; and after a read that brought Read Data Substitute VAR and BCR 31:16 stay at the quadword that failed (R1013). -/
def mbaQuadword (s : State) (n : Nat) (m : MbaState) (kind : Config.MbaTransfer) : Option State :=
  let off := m.quadOffset
  let k := min (8 - off) m.remaining
  let pa := m.quadPa
  if m.aborting ∨ m.counted then none
  else if !m.mapReg.getLsbD 31 then some (s.setMba n (m.abortWith 4))
  else if !s.memPresent pa 8 then
    some (s.setMba n (if s.refusesQuad pa then m.abortWith 3 else (m.setSr 30).abortWith 1))
  else
    match kind with
    | .read =>
      if m.silo.length < k then none
      else
        let m' := { m with silo := m.silo.drop k }.advance k
        let s := if k = 8 then s.renewQuad pa else s
        some ((storeBytes s (pa + off) (m.silo.take k)).setMba n m')
    | _ =>
      if 24 < m.silo.length then none
      else
        match s.readAt pa with
        | (.substitute, t) => some (t.setMba n (m.abortWith 2))
        | (tag, t) =>
          let m := if tag = .corrected then m.setSr 29 else m
          some (t.setMba n ({ m with silo := m.silo ++ quadBytes s pa off k }.advance k))

end Sys2Proof.Machine
end

