-- ==== Sys2Proof/Machine/MemCtl.lean ====
section
/-! DEFINITION. The memory controllers' registers and bootstrap ROM in I/O space (64_memory_controller.md R873 to R877,
R890, R891). -/
namespace Sys2Proof.Machine
open Sys2Proof

/-- Configuration Register A (R873); the bits the spec does not describe come from the free word u. -/
def MemCtlState.regA (c : Config.MemCtl) (m : MemCtlState) (u : Word) : Word :=
  (u &&& 0x033F00E0) ||| (m.power.setWidth 32 <<< 22) ||| (BitVec.ofNat 32 (c.units - 1) &&& 0x7F) <<< 9 |||
    (c.chip.setWidth 32 <<< 3) ||| bitAt 0 m.interleave

/-- Configuration Register B (R874). -/
def MemCtlState.regB (m : MemCtlState) (u : Word) : Word :=
  (u &&& 0xF0000800) ||| (m.start.setWidth 32 <<< 15) ||| (m.initStatus.setWidth 32 <<< 12) ||| m.diag.setWidth 32

/-- Configuration Register C as it reads, from its bits 30:0 (R876). -/
def regCWord (r : BitVec 31) (u : Word) : Word := (u &&& 0x80000000) ||| r.setWidth 32

/-- A write of Register A: status bits are cleared by ones, bit 8 enables bit 0 (R873). -/
def MemCtlState.writeA (m : MemCtlState) (v : Word) : MemCtlState :=
  { m with
    power := m.power &&& ~~~(v.extractLsb' 22 2)
    interleave := if v.getLsbD 8 then v.getLsbD 0 else m.interleave }

/-- A write of Register B: bit 14 enables the starting address (R874). -/
def MemCtlState.writeB (m : MemCtlState) (v : Word) : MemCtlState :=
  { m with
    start := if v.getLsbD 14 then v.extractLsb' 15 13 else m.start
    diag := v.setWidth 11 }

/-- Register C after a write: bit 30 is stored, bits 29 and 28 are cleared by ones (R876). -/
def regCWritten (r : BitVec 31) (v : Word) : BitVec 31 :=
  setBit (r &&& ~~~(v.setWidth 31 &&& 0x30000000)) 30 (v.getLsbD 30)

/-- AC LO deasserted, or asserted; only a controller strapped to inhibit ROM decode reports the assertion (R873). Which of the
two status bits is which is log 20's. -/
def MemCtlState.acLo (c : Config.MemCtl) (up : Bool) (m : MemCtlState) : MemCtlState :=
  if up then { m with power := 1 } else if c.rom then m else { m with power := 2 }

/-- The SBI's ALERT line: some controller has a power status bit set (R873; 63_sbi.md R835). -/
def State.alert (s : State) : Bool := s.bus.memctls.any fun m => m.power != 0

/-- Controller k replaced. -/
def setMemCtl (k : Nat) (m : MemCtlState) : M Unit :=
  modify fun s => { s with bus := { s.bus with memctls := s.bus.memctls.set k m } }

/-- Register C of controller k written. -/
def writeRegC (k : Nat) (v : Word) : M Unit :=
  modify fun s => { s with errs := { s.errs with regC := s.errs.regC.modify k fun r => regCWritten r v } }

/-- A CPU read in controller k's block, at the longword offset off with byte mask mask. -/
def memCtlRead (k : Nat) (c : Config.MemCtl) (m : MemCtlState) (pa off : Nat) (mask : BitVec 4) : M Word := do
  let s ← get
  match s.romLong c off with
  | some v => pure v
  | none =>
    if off = 0 ∨ off = 4 ∨ off = 8 then
      if mask ≠ 0xF then raise (.refuse .deviceDiscipline)
      else do
        let u ← draw 32
        pure (if off = 0 then m.regA c u else if off = 4 then m.regB u else regCWord (s.errs.regC.getD k 0) u)
    else raise (.machineCheck pa)

/-- A CPU write in controller k's block. Setting the ECC diagnostic bits 9 and 8 of Register B is refused (D32). -/
def memCtlWrite (k : Nat) (m : MemCtlState) (pa off : Nat) (mask : BitVec 4) (v : Word) : M Unit :=
  if off = 0 ∨ off = 4 ∨ off = 8 then
    if mask ≠ 0xF then raise (.refuse .deviceDiscipline)
    else if off = 0 then setMemCtl k (m.writeA v)
    else if off = 4 then
      if v.getLsbD 9 ∨ v.getLsbD 8 then raise (.refuse .deviceDiscipline) else setMemCtl k (m.writeB v)
    else writeRegC k v
  else raise (.machineCheck pa)

end Sys2Proof.Machine
end

