-- ==== Sys2Proof/Machine/IoSpace.lean ====
section
/-! DEFINITION. Physical data references of the CPU: main memory byte by byte, I/O space as SBI transactions
(20_memory.md R165 to R169, R230 to R232; 63_sbi.md R812 to R828). -/
namespace Sys2Proof.Machine
open Sys2Proof

/-- A read transaction of the CPU in I/O space: the longword at pa, the bytes of the mask wanted. -/
def ioReadLong (pa : Nat) (mask : BitVec 4) (ilk : Bool) : M Word := do
  let s ← get
  match s.responder pa with
  | none => raise (.machineCheck pa)
  | some (.memCtl n c m, off) => memCtlRead n c m pa off mask
  | some (.ubaReg n c u, off) => ubaRegRead n c u pa off
  | some (.mba n c m, off) => mbaRead n c m pa off mask
  | some (.unibus n c u, off) => unibusRead n c u pa off mask ilk

/-- A write transaction of the CPU in I/O space. -/
def ioWriteLong (pa : Nat) (mask : BitVec 4) (ilk : Bool) (v : Word) : M Unit := do
  let s ← get
  match s.responder pa with
  | none => raise (.machineCheck pa)
  | some (.memCtl n _ m, off) => memCtlWrite n m pa off mask v
  | some (.ubaReg n _ u, off) => ubaRegWrite n u pa off mask v
  | some (.mba n c m, off) => mbaWrite n c m pa off mask v
  | some (.unibus n _ u, off) => unibusWrite n u pa off mask ilk v

/-- Byte addresses grouped into the longwords of successive transactions (R154, D13). -/
def groupLongs : List Nat → List (List Nat)
  | [] => []
  | a :: t =>
    match groupLongs t with
    | [] => [[a]]
    | g :: gs => if g.head?.any (fun b => longOf b == longOf a) then (a :: g) :: gs else [a] :: g :: gs

/-- The byte mask of a group (63_sbi.md R814). -/
def groupMask : List Nat → BitVec 4
  | [] => 0
  | a :: t => setBit (groupMask t) (a % 4) true

/-- Little-endian number of the wanted bytes of a longword. -/
def pickBytes (v : Word) : List Nat → Nat
  | [] => 0
  | a :: t => (byteOf v (a % 4)).toNat + 256 * pickBytes v t

/-- A longword with the low-order bytes of a number in the wanted lanes. -/
def placeBytes : List Nat → Nat → Word
  | [], _ => 0
  | a :: t, v => setField (placeBytes t (v / 256)) (8 * (a % 4)) (BitVec.ofNat 8 v)

/-- The bytes of successive groups, each from main memory or by one transaction, as a little-endian number. -/
def loadGroups (ilk : Bool) : List (List Nat) → M Nat
  | [] => pure 0
  | g :: gs => do
    let pa := g.headD 0
    let v ← if pa < ioBase then cpuLoad g else do
      let w ← ioReadLong (longOf pa) (groupMask g) ilk
      pure (pickBytes w g)
    let r ← loadGroups ilk gs
    pure (v + 256 ^ g.length * r)

/-- The low-order bytes of a number stored to successive groups. -/
def storeGroups (ilk : Bool) : List (List Nat) → Nat → M Unit
  | [], _ => pure ()
  | g :: gs, v => do
    let pa := g.headD 0
    if pa < ioBase then programStore g v else ioWriteLong (longOf pa) (groupMask g) ilk (placeBytes g v)
    storeGroups ilk gs (v / 256 ^ g.length)

/-- Whether some byte lies in I/O space. -/
def touchesIo (pas : List Nat) : Bool := pas.any fun a => decide (ioBase ≤ a)

/-- The bytes at a list of physical addresses. io tells whether the operand may lie in I/O space (R230); ilk asks for the
interlocked read that a byte or word modify operand makes in UNIBUS space (R232). -/
def physLoad (io ilk : Bool) (pas : List Nat) : M Nat :=
  if touchesIo pas then
    if io then loadGroups ilk (groupLongs pas) else raise (.refuse .ioSpaceReference)
  else cpuLoad pas

/-- The low-order bytes of a number stored at a list of physical addresses; nothing is stored when main memory does not
answer at one of them (D15). -/
def physStore (io ilk : Bool) (pas : List Nat) (v : Nat) : M Unit := do
  if touchesIo pas then
    if io then
      needMemory (pas.filter fun a => decide (a < ioBase))
      storeGroups ilk (groupLongs pas) v
    else raise (.refuse .ioSpaceReference)
  else
    needMemory pas
    programStore pas v

/-- A physical address in some UNIBUS window (R168). -/
def inUnibus (pa : Nat) : Bool := decide (0x20100000 ≤ pa) && decide (pa < 0x20200000)

/-- A register or the ROM answers a read of the longword at a physical address of I/O space: a UNIBUS takes no longword
(65_uba.md R911). -/
def State.takesLong (s : State) (pa : Nat) : Bool := s.answers pa && !inUnibus pa

/-- PhysRead of a longword: page tables, the SCB and the PCB (20_memory.md R192). In I/O space a register or the ROM gives it, and
nothing else does (R169, D15, D27). io: the reference is one that may be made there; otherwise it is refused where something
would answer (R230, D19; log 21). -/
def physReadLong (io : Bool) (pa : Nat) : M Word :=
  if pa < ioBase then BitVec.ofNat 32 <$> cpuLoad [pa, pa + 1, pa + 2, pa + 3]
  else if io then ioReadLong (longOf pa) 0xF false
  else do
    let s ← get
    if s.takesLong pa then raise (.refuse .ioSpaceReference) else raise (.machineCheck pa)

end Sys2Proof.Machine
end

