-- ==== Sys2Proof/Machine/Dma.lean ====
section
/-! DEFINITION. What UNIBUS devices and MASSBUS drives do: requests, DMA through the data paths of a UNIBUS adapter, the
words and sector ends of a MASSBUS transfer (65_uba.md R901 to R904, R930 to R937, R980; 66_mba.md R1002, R1041). -/
namespace Sys2Proof.Machine
open Sys2Proof

/-- The outcome of an agent's turn. -/
abbrev TurnOutcome := Host.Outcome State Fault Refusal

/-- The agent cannot take this turn now. -/
def notEnabled : TurnOutcome := .refused .turnNotEnabled

/-- A transfer on the UNIBUS by a device (R901). -/
inductive DmaOp where
  | dati
  | datip
  | dato (v : BitVec 16)
  | datob (v : Byte)
  deriving DecidableEq, Repr

/-- The device writes. -/
def DmaOp.writes : DmaOp → Bool
  | .dato _ => true
  | .datob _ => true
  | _ => false

/-- The UNIBUS address of the first byte moved: only a byte write uses address bit 0 (R901). -/
def DmaOp.addr (ua : BitVec 18) : DmaOp → BitVec 18
  | .datob _ => ua
  | _ => ua &&& 0x3FFFE

/-- The bytes written, at ascending addresses. -/
def DmaOp.bytes : DmaOp → List Byte
  | .dato v => [byteOf v 0, byteOf v 1]
  | .datob v => [v]
  | _ => []

/-- The device sees nonexistent memory. -/
def dmaNone (s : State) (n : Nat) (u : UbaState) : TurnOutcome := .next ((s.setUba n u).emit (.dmaNxm n))

/-- The device's write is done. -/
def dmaWritten (s : State) (n : Nat) (u : UbaState) : TurnOutcome := .next ((s.setUba n u).emit (.dmaDone n))

/-- The device gets a word. -/
def dmaGives (s : State) (n : Nat) (u : UbaState) (v : BitVec 16) : TurnOutcome :=
  .next ((s.setUba n u).emit (.dmaData n v))

/-- The adapter has received corrected data (R942). -/
def UbaState.noteCrd (u : UbaState) (tag : ReadTag) : UbaState :=
  if tag = .corrected then { u with uasr := setBit u.uasr 8 true } else u

/-! ### Direct data path -/

/-- What a device's transaction in SBI I/O space answers (R930, R931, R936, R937): a value, or the device sees nonexistent
memory, with the error of map register m recorded. A bus that somebody holds makes it wait. -/
def dmaIo (s : State) (n m pa : Nat) (op : M Word) (done : Word → State → State) : TurnOutcome :=
  match op s with
  | .ok v s' => .next (done v s')
  | .error (.refuse r) _ => .refused r
  | .error .wait _ => notEnabled
  | .error t s' =>
    let bit := if t = .readData then 9 else s.failBit pa
    .next ((s'.onUba n fun u => { u with hold := none, late := false }.dmaError m bit).emit (.dmaNxm n))

/-- A transfer through the direct data path to SBI I/O space, interlocked for DATIP and the write after it (R930, R931). The
device has its own UNIBUS meanwhile, so that a read there ends with UBSTO (R914). -/
def dmaToIo (s : State) (n : Nat) (u : UbaState) (ua : BitVec 18) (op : DmaOp) (ilk : Bool) : TurnOutcome :=
  let pa := mapPa (u.mapOf ua) ua
  let lanes := if op = .datob (op.bytes.headD 0) then [pa] else [pa, pa + 1]
  let word := ua &&& 0x3FFFE
  let s := s.setUba n { u with hold := some word, late := true }
  let kept (s' : State) : State :=
    s'.onUba n fun u => { u with hold := if op = .datip then some word else none, late := false }
  if op.writes then
    dmaIo s n (ua.toNat / 512) pa
      (do
        ioWriteLong (longOf pa) (groupMask lanes) ilk
          (placeBytes lanes (joinBytes (fun i => op.bytes.getD i 0) op.bytes.length))
        pure 0)
      fun _ s' => (kept s').emit (.dmaDone n)
  else
    dmaIo s n (ua.toNat / 512) pa (ioReadLong (longOf pa) (groupMask lanes) (op = .datip))
      fun v s' => (kept s').emit (.dmaData n (BitVec.ofNat 16 (pickBytes v lanes)))

/-- A transfer through the direct data path: one SBI transaction, interlocked for DATIP and the write after it, which ilk
tells of (R931, R937). An interlock read waits while the interlock is held, whatever its address (63_sbi.md R822). Read data in
error: CRD, or RDS and the device gets no data (R937, R942; that a DATIP then leaves no interlock behind is DEDUCED, log 16). -/
def dmaDirect (s : State) (n : Nat) (u : UbaState) (ua : BitVec 18) (op : DmaOp) (ilk : Bool) : TurnOutcome :=
  let pa := mapPa (u.mapOf ua) ua
  let bytes := op.bytes
  if op = .datip ∧ s.bus.intlk then notEnabled
  else if ioBase ≤ pa then dmaToIo s n u ua op ilk
  else if !s.memPresent pa (if op.writes then bytes.length else 2) then
    dmaNone s n (u.dmaError (ua.toNat / 512) 6)
  else if op.writes then dmaWritten (storeBytes s pa bytes) n u
  else
    let v := BitVec.ofNat 16 ((s.memValue pa 2).getD 0)
    match s.readAt pa with
    | (.substitute, t) => dmaNone t n (u.dmaError (ua.toNat / 512) 9)
    | (tag, t) =>
      let u := u.noteCrd tag
      if op = .datip then
        dmaGives { t with bus := { t.bus with intlk := true } } n
          { u with ddpLock := true, hold := some (ua &&& 0x3FFFE) } v
      else dmaGives t n u v

/-! ### Buffered data paths -/

/-- The physical address of a byte that a device transfers at a UNIBUS address, byte offset added; none where its map register
is invalid, absent or disabled (R930, R935). -/
def UbaState.bytePa (u : UbaState) (ua : Nat) : Option Nat :=
  let m := ua / 512
  let mr := sparseRead u.map m
  if 496 ≤ m ∨ m < 16 * (u.uacr.extractLsb' 26 5).toNat ∨ !mr.getLsbD 31 then none
  else some ((mr.setWidth 21).toNat * 512 + ua % 512 + (if mr.getLsbD 25 ∧ !mr.getLsbD 20 then 1 else 0))

/-- A data path holding a quadword read from memory. -/
def DataPath.filled (p : DataPath) (quad : Nat) (v : BitVec 64) : DataPath :=
  { p with bne := true, dpf := false, bs := 0, data := v, held := BitVec.ofNat 27 quad, long := false }

/-- The quadword of a byte address. -/
def quadOf (a : Nat) : Nat := a / 8

/-- The path holds the quadword of memory as data read from it. -/
def DataPath.holds (p : DataPath) (quad : Nat) : Bool := p.bne && !p.dpf && p.held == BitVec.ofNat 27 quad

/-- The path with the quadword of memory fetched, unless it holds it; the flag tells that the path has it: a fetch that fails is
recorded through map register m (R933, R937). DESIGN CHOICE (log 27): it leaves the path's contents, BNE and BUBA as they were. -/
def needQuad (s : State) (u : UbaState) (d : Fin 16) (m quad : Nat) : State × UbaState × Bool :=
  if u.dpr[d].holds quad then (s, u, true)
  else
    match s.memValue (quad * 8) 8 with
    | some v =>
      match s.readAt (quad * 8) with
      | (.substitute, t) => (t, u.dmaError m 9, false)
      | (tag, t) =>
        (t, { u with dpr := u.dpr.set d (u.dpr[d].filled quad (BitVec.ofNat 64 v)) }.noteCrd tag, true)
    | none => (s, u.dmaError m (if s.refusesQuad (quad * 8) then 7 else 6), false)

/-- The path emptied. -/
def UbaState.emptyPath (u : UbaState) (d : Fin 16) : UbaState :=
  { u with dpr := u.dpr.set d { u.dpr[d] with bne := false, dpf := false, bs := 0 } }

/-- The quadword of the device's next word prefetched; a failure leaves the path empty, and the adapter records no error (R933). -/
def prefetch (s : State) (u : UbaState) (d : Fin 16) (ua : Nat) : State × UbaState :=
  match (u.bytePa ua).bind fun pa => (s.memValue (quadOf pa * 8) 8).map fun v => (quadOf pa, v) with
  | some (quad, v) =>
    match s.readAt (quad * 8) with
    | (.substitute, t) => (t, u.emptyPath d)
    | (_, t) => (t, { u with dpr := u.dpr.set d (u.dpr[d].filled quad (BitVec.ofNat 64 v)) })
  | none => (s, u.emptyPath d)

/-- The UNIBUS address the path has seen. -/
def UbaState.touchPath (u : UbaState) (d : Fin 16) (ua : Nat) : UbaState :=
  { u with dpr := u.dpr.set d { u.dpr[d] with buba := BitVec.ofNat 16 (ua / 4) } }

/-- Byte i of the data the path holds. -/
def UbaState.pathByte (u : UbaState) (d : Fin 16) (i : Nat) : Byte := byteOf u.dpr[d].data (i % 8)

/-- A device's read at a UNIBUS address of the two bytes from the physical address a (R933, R935). -/
def dmaBufferedRead (s : State) (n : Nat) (u : UbaState) (d : Fin 16) (ua a : Nat) : TurnOutcome :=
  let m := ua / 512
  if u.dpr[d].bne && u.dpr[d].dpf then .refused .deviceDiscipline
  else
    match needQuad s u d m (quadOf a) with
    | (s, u, false) => dmaNone s n u
    | (s, u, true) =>
      let lo := u.pathByte d a
      match needQuad s u d m (quadOf (a + 1)) with
      | (s, u, false) => dmaNone s n u
      | (s, u, true) =>
        let hi := u.pathByte d (a + 1)
        let (s, u) := if (a + 1) % 8 = 7 then prefetch s u d (ua + 2) else (s, u)
        dmaGives s n (u.touchPath d ua) (hi ++ lo)

/-- The write function of a data path for the bytes of the physical addresses from a on, which stand at UNIBUS addresses from ua
on, byte offset added: each byte is stored in the path, and the last one of a quadword sends the quadword to memory (R932,
R935). The flag tells whether every transfer to memory succeeded. -/
def bufferBytes (s : State) (n : Nat) (u : UbaState) (d : Fin 16) (m ua a : Nat) :
    List Byte → State × UbaState × Bool
  | [] => (s, u, true)
  | b :: bs =>
    let p := u.dpr[d]
    let p := { p with
      bne := true, dpf := true, bs := setBit p.bs (a % 8) true, data := setField p.data (8 * (a % 8)) b
      held := BitVec.ofNat 27 (quadOf a), buba := BitVec.ofNat 16 (ua / 4), long := false }
    let u := { u with dpr := u.dpr.set d p }
    if a % 8 = 7 then
      let (s, u, ok) := flushPath s n u d m
      if ok then bufferBytes s n u d m (ua + 1) (a + 1) bs else (s, u, false)
    else bufferBytes s n u d m (ua + 1) (a + 1) bs

/-- A byte that byte offset carried over a page end, if the path still holds it when the device goes on at the start of its
next page, which may lie elsewhere in memory: it is written first (R935; log 27). -/
def flushCarried (s : State) (n : Nat) (u : UbaState) (d : Fin 16) (ua a : Nat) : State × UbaState × Bool :=
  let p := u.dpr[d]
  if p.bne && p.dpf && (u.mapOf (BitVec.ofNat 18 ua)).getLsbD 25 && ua % 512 == 0 &&
      p.held != BitVec.ofNat 27 (quadOf a) && p.bs == 1 then
    flushPath s n u d (ua / 512)
  else (s, u, true)

/-- A device's write through a data path (R932). Data of another quadword, or read data, still in the path is refused
(R934, D33). -/
def dmaBufferedWrite (s : State) (n : Nat) (u : UbaState) (d : Fin 16) (ua a : Nat) (bytes : List Byte) :
    TurnOutcome :=
  let (s, u, ok) := flushCarried s n u d ua a
  let p := u.dpr[d]
  let offset := (u.bytePa ua).getD a - mapPa (u.mapOf (BitVec.ofNat 18 ua)) (BitVec.ofNat 18 ua)
  if !ok then dmaNone s n u
  else if p.bne && (!p.dpf || p.held != BitVec.ofNat 27 (quadOf a)) then .refused .deviceDiscipline
  else
    let (s, u, ok) := bufferBytes s n u d (ua / 512) (ua + offset) a bytes
    let spilled := quadOf (a + bytes.length - 1) ≠ quadOf (a - offset)
    let u := if ok ∧ !spilled then u.touchPath d ua else u
    if ok then dmaWritten s n u else dmaNone s n u

/-! ### Longword-aligned mode -/

/-- The physical longword of a UNIBUS address (R930). -/
def UbaState.longPa (u : UbaState) (ua : Nat) : Nat := mapPa (u.mapOf (BitVec.ofNat 18 ua)) (BitVec.ofNat 18 ua) / 4 * 4

/-- Data path d of adapter n changed by f. -/
def State.onPath (s : State) (n : Nat) (d : Fin 16) (f : DataPath → DataPath) : State :=
  s.onUba n fun u => { u with dpr := u.dpr.set d (f u.dpr[d]) }

/-- A device's read in longword-aligned 32-bit random access mode (R936). The longword is kept in the low half of the
path's data. -/
def dmaLongRead (s : State) (n : Nat) (u : UbaState) (d : Fin 16) (ua : Nat) : TurnOutcome :=
  let p := u.dpr[d]
  let pa := u.longPa ua
  let high := ua / 2 % 2 = 1
  let word (v : BitVec 64) : BitVec 16 := if high then v.extractLsb' 16 16 else v.setWidth 16
  let gives (s : State) (v : BitVec 64) : State :=
    (s.onPath n d fun p =>
      { p with bne := !high, dpf := false, data := v, held := BitVec.ofNat 27 (quadOf pa),
               buba := BitVec.ofNat 16 (ua / 4), long := true }).emit (.dmaData n (word v))
  if p.bne then .next (gives (s.setUba n u) p.data)
  else if ioBase ≤ pa then
    dmaIo (s.setUba n u) n (ua / 512) pa (ioReadLong pa 0xF false) fun v s' => gives s' (v.setWidth 64)
  else
    match s.memValue pa 4 with
    | some v =>
      match s.readAt pa with
      | (.substitute, t) => dmaNone t n (u.dmaError (ua / 512) 9)
      | (tag, t) => .next (gives (t.setUba n (u.noteCrd tag)) (BitVec.ofNat 64 v))
    | none => dmaNone s n (u.dmaError (ua / 512) 6)

/-- A device's write in longword-aligned mode: the byte or word that ends the longword sends the bytes stored so far to
memory, or to a register in I/O space (R936). -/
def dmaLongWrite (s : State) (n : Nat) (u : UbaState) (d : Fin 16) (ua : Nat) (bytes : List Byte) : TurnOutcome :=
  let p := u.dpr[d]
  let pa := u.longPa ua
  let (data, bs) := (bytes.zipIdx).foldl
    (fun (x : BitVec 64 × Byte) b =>
      (setField x.1 (8 * ((ua + b.2) % 4)) b.1, setBit x.2 ((ua + b.2) % 4) true)) (p.data, p.bs)
  let p := { p with bne := true, dpf := true, bs := bs, data := data, held := BitVec.ofNat 27 (quadOf pa),
                    buba := BitVec.ofNat 16 (ua / 4), long := true }
  let sent := { p with bne := false, bs := 0 }
  if (ua + bytes.length) % 4 ≠ 0 then dmaWritten s n { u with dpr := u.dpr.set d p }
  else if ioBase ≤ pa then
    match ioWriteLong pa (bs.setWidth 4) false (data.setWidth 32) (s.setUba n { u with dpr := u.dpr.set d sent }) with
    | .ok _ s' => .next (s'.emit (.dmaDone n))
    | .error (.refuse r) _ => .refused r
    | .error .wait _ => notEnabled
    | .error _ s' =>
      .next (((s'.onPath n d fun p => { p with bte := true }).onUba n fun u => u.dmaError (ua / 512) (s.failBit pa)).emit
        (.dmaNxm n))
  else if s.memPresent pa 4 then
    dmaWritten (storeMasked s pa data bs 4) n { u with dpr := u.dpr.set d sent }
  else dmaNone s n ({ u with dpr := u.dpr.set d { sent with bte := true } }.dmaError (ua / 512) 6)

/-! ### A device as UNIBUS master -/

/-- A transfer through data path d, not 0 (R930 to R937): none while it has an error, none for DATIP. Data that longword-aligned
mode left in the path is refused to a transfer without it, and the other way round: the path was not purged between them (R934,
D33). Longword-aligned mode with byte offset in force, that is not at an SBI I/O address (R948), is refused (R936, D33). -/
def dmaBuffered (s : State) (n : Nat) (u : UbaState) (d : Fin 16) (mr : Word) (ua : Nat) (op : DmaOp) : TurnOutcome :=
  if u.dpr[d].bte ∨ op = .datip then dmaNone s n u
  else if u.dpr[d].bne && u.dpr[d].long != mr.getLsbD 26 then .refused .deviceDiscipline
  else if mr.getLsbD 26 then
    if mr.getLsbD 25 && !mr.getLsbD 20 then .refused .deviceDiscipline
    else if op.writes then dmaLongWrite s n u d ua op.bytes
    else dmaLongRead s n u d ua
  else
    match u.bytePa ua with
    | none => dmaNone s n u
    | some a => if op.writes then dmaBufferedWrite s n u d ua a op.bytes else dmaBufferedRead s n u d ua a

/-- The device that is between its DATIP and its DATO has the UNIBUS, and writes at the same word next (R901). -/
def UbaState.lets (u : UbaState) (ua : BitVec 18) (op : DmaOp) : Bool :=
  match u.hold with
  | none => true
  | some w => op.writes && w == ua &&& 0x3FFFE

/-- The adapter has the UNIBUS for a commander of the SBI between its DATIP and its DATO: the interlocked write has not come, or is
not yet made on the UNIBUS (R912, R913). -/
def UbaState.sbiHolds (u : UbaState) : Bool := (u.datip.isSome || u.posted.any (·.ilk)) && u.hold.isNone

/-- A device's transfer at a UNIBUS address (R930). A transfer between devices, or at an address whose map register is
disabled, does not reach the adapter. While a device, or a commander of the SBI, is between its DATIP and its DATO nobody else has
the UNIBUS (R901, R913); ilk: the write ends the device's sequence. -/
def dmaMoves (s : State) (n : Nat) (u : UbaState) (ua : BitVec 18) (op : DmaOp) (ilk : Bool) : TurnOutcome :=
  let m := ua.toNat / 512
  let mr := u.mapOf ua
  if 496 ≤ m ∨ m < 16 * (u.uacr.extractLsb' 26 5).toNat then
    .next (s.setUba n { u with hold := if op = .datip then some (ua &&& 0x3FFFE) else none })
  else if !mr.getLsbD 31 then dmaNone s n (u.dmaError m 4)
  else
    let d : Fin 16 := ⟨(mr.extractLsb' 21 4).toNat, (mr.extractLsb' 21 4).isLt⟩
    if d = 0 then dmaDirect s n u ua op ilk else dmaBuffered s n u d mr ua.toNat op

/-- A device's DATIP of adapter n is over: a flip-flop it set on another UNIBUS is the device's while it goes on to its DATO (R913). -/
def State.keepDatip (s : State) (n : Nat) : State :=
  s.handDatip .cpu (if s.bus.ubas[n]?.any (·.hold.isSome) then some (.adapter n) else none)

/-- The state of an outcome changed by f. -/
def andThen (f : State → State) : TurnOutcome → TurnOutcome
  | .next t => .next (f t)
  | o => o

/-- A device's transfer at a UNIBUS address, where its bus is free for it. A DATIP that goes on to another UNIBUS sets the flip-flop
there, which is the device's until the write that ends its sequence; that write releases the SBI interlock too (R913, R931). -/
def dmaTransfer (s : State) (n : Nat) (u : UbaState) (ua : BitVec 18) (op : DmaOp) : TurnOutcome :=
  let ua := op.addr ua
  let free (u : UbaState) : UbaState := { u with hold := none, late := false, ddpLock := false }
  if u.phase ≠ .ready ∨ u.sbiHolds ∨ !u.lets ua op then notEnabled
  else if u.hold.isSome then
    let s := (s.handDatip (.adapter n) (some .cpu)).releaseInterlock n
    andThen State.endDatip (dmaMoves s n (free (u.handDatip (.adapter n) (some .cpu))) ua op true)
  else if op = .datip then andThen (·.keepDatip n) (dmaMoves s n (free u) ua op false)
  else dmaMoves s n (free u) ua op false

/-- A turn of UNIBUS adapter n or of a device on its bus (R901, R902, R904, R914, R930, R980). -/
def unibusTurn (s : State) (n : Nat) (c : Config.Uba) (u : UbaState) : UnibusEvent → TurnOutcome
  | .raise r =>
    if u.phase = .ready ∧ 4 ≤ r.level ∧ r.level ≤ 7 ∧ r.device < c.devices.length then
      .next (s.setUba n { u with brs := insertRequest r u.brs })
    else notEnabled
  | .drop r => if u.brs.contains r then .next (s.setUba n { u with brs := u.brs.erase r }) else notEnabled
  | .dati ua => dmaTransfer s n u ua .dati
  | .datip ua => dmaTransfer s n u ua .datip
  | .dato ua v => dmaTransfer s n u ua (.dato v)
  | .datob ua v => dmaTransfer s n u ua (.datob v)
  | .parity => if u.phase = .ready then .next (s.setUba n { u with pb := true }) else notEnabled
  | .abandon =>
    if u.hold.isSome then
      .next ((s.releaseInterlock n).setUba n { u.handDatip (.adapter n) none with hold := none, late := false, ddpLock := false })
    else notEnabled
  | .posted =>
    match u.posted with
    | [] => notEnabled
    | p :: rest =>
      let x := makePosted n c ({ u with posted := rest }, []) p
      .next { s.setUba n x.1 with outputs := x.2 ++ s.outputs }
  | .grantTimeout => if u.hold.isSome then .next (s.setUba n { u with late := true }) else notEnabled
  | .adapterInitDone =>
    if u.phase = .adapterInit then .next (s.setUba n { u with phase := .unibusInit }) else notEnabled
  | .unibusInitDone =>
    if u.phase = .unibusInit ∧ !u.uacr.getLsbD 1 then
      .next (s.setUba n { u with phase := .ready, ubInit := false, ubPdn := false, ubic := true })
    else notEnabled

/-! ### MASSBUS -/

/-- The bytes of a drive's word, lowest address first, as many as the transfer still counts. -/
def MbaState.wordBytes (m : MbaState) (v : BitVec 16) : List Byte := [byteOf v 0, byteOf v 1].take m.massRemaining

/-- A write check of the drive's bytes against the silo's: SR 9 for the lower byte, 10 for the upper (R1012). -/
def MbaState.compare (m : MbaState) (bytes : List Byte) : MbaState :=
  let a := if m.silo[0]? = bytes[0]? then m else m.abortWith 9
  let b := if bytes.length = 2 ∧ m.silo[1]? ≠ bytes[1]? then a.abortWith 10 else a
  { b with silo := m.silo.drop bytes.length }

/-- The drive gives the word v: into the silo, or against it in a write check; data late when the silo has no room, or not the
bytes (R1012, R1041). A word after the byte count is dropped: the drive finishes its sector. -/
def MbaState.takeWord (m : MbaState) (kind : Config.MbaTransfer) (v : BitVec 16) : MbaState :=
  let bytes := m.wordBytes v
  if m.aborting ∨ bytes = [] then m
  else
    match kind with
    | .read =>
      if 30 < m.silo.length then m.abortWith 11
      else { m with silo := m.silo ++ bytes }.massAdvance bytes.length
    | _ => if m.silo.length < bytes.length then m.abortWith 11 else (m.compare bytes).massAdvance bytes.length

/-- The drive takes a word of a write transfer: the silo's, with free bytes past the byte count; data late when the silo has not
the bytes (R1012, R1041). -/
def massbusTake (s : State) (n : Nat) (m : MbaState) : TurnOutcome :=
  let fresh : BitVec 16 := (Config.freeValue s.free).setWidth 16
  let k := min 2 m.massRemaining
  if m.silo.length < k then .next (s.setMba n (m.abortWith 11))
  else
    let lo := if 1 ≤ k then m.silo.headD 0 else byteOf fresh 0
    let hi := if k = 2 then (m.silo.drop 1).headD 0 else byteOf fresh 1
    .next (({ s with free := if k = 2 then s.free else s.free + 1 }.setMba n
      ({ m with silo := m.silo.drop k }.massAdvance k)).emit (.driveData n (hi ++ lo)))

/-- A drive's sector ends: an aborted transfer ends with it, and so does one whose bytes have all moved on both sides; the
sector of a transfer that goes on is followed by another (R1041). DESIGN CHOICE (log 28): in a read started without reloading
BCR after an aborted one, where bits 15:0 count fewer bytes than bits 31:16, the drive's words past the count of 15:0 are
dropped, the SBI side never counts out, and the transfer ends by ABORT or INIT only. -/
def massbusBlockEnd (s : State) (n : Nat) (m : MbaState) : TurnOutcome :=
  if m.aborting then .next (s.setMba n (m.finish true))
  else if !m.massCounted then .next s
  else if m.counted then .next (s.setMba n (m.finish false))
  else notEnabled

/-- A turn of MASSBUS adapter n or of a drive (R1002, R1041). DESIGN CHOICE (log 28): ABORT that was set while no transfer was in
progress and is still set when a drive accepts one aborts that transfer from its start. -/
def massbusTurn (s : State) (n : Nat) (c : Config.Mba) (m : MbaState) : MassbusEvent → TurnOutcome
  | .attention unit on =>
    if c.drives.any (fun d => d.unit == unit.toNat) then .next (s.setMba n { m with attn := setBit m.attn unit.toNat on })
    else notEnabled
  | .start =>
    if m.busy then notEnabled
    else
      match m.commanded with
      | none => notEnabled
      | some k =>
        .next (s.setMba n { m.setSr 31 with
          commanded := none, transfer := some k, first := true, aborting := m.abort, counted := false
          massCounted := false, silo := [] })
  | .driveWord v =>
    match m.transfer with
    | none => notEnabled
    | some .write => notEnabled
    | some k => .next (s.setMba n (m.takeWord k v))
  | .driveTake => if m.transfer = some .write ∧ !m.aborting then massbusTake s n m else notEnabled
  | .quadword =>
    match m.transfer with
    | none => notEnabled
    | some k =>
      match mbaQuadword s n m k with
      | some s' => .next s'
      | none => notEnabled
  | .endOfBlock => if m.transfer.isSome then massbusBlockEnd s n m else notEnabled
  | .exception => if m.transfer.isSome then .next (s.setMba n (m.abortWith 7)) else notEnabled

end Sys2Proof.Machine
end

