-- ==== Sys2Proof/Machine/FloatFormat.lean ====
section
/-! DEFINITION. F_floating and D_floating data, 32 and 64 bits, and exact arithmetic on their values (44_float.md R600 to
R602; 00_scope.md R20, R21). -/
namespace Sys2Proof.Machine
open Sys2Proof

/-- The k words of a number in the opposite order. -/
def swapNat : Nat → Nat → Nat
  | 0, _ => 0
  | k + 1, v => v % 65536 * 65536 ^ k + swapNat k (v / 65536)

/-- A datum with its words in the opposite order: sign, exponent and fraction stand from its top bit down (R600). -/
def swapWords {w : Nat} (x : BitVec w) : BitVec w := BitVec.ofNat w (swapNat (w / 16) x.toNat)

/-- Sign bit, 15 (R600). -/
def fSign {w : Nat} (x : BitVec w) : Bool := x.getLsbD 15

/-- Exponent, bits 14:7, excess 128 (R600). -/
def fExp {w : Nat} (x : BitVec w) : Nat := (x.extractLsb' 7 8).toNat

/-- The stored fraction, w - 9 bits (R600). -/
def fFrac {w : Nat} (x : BitVec w) : Nat := (swapWords x).toNat % 2 ^ (w - 9)

/-- The reserved operand: sign 1, exponent 0 (R600). -/
def fReserved {w : Nat} (x : BitVec w) : Bool := fSign x && fExp x == 0

/-- The value is 0 (R600). -/
def fIsZero {w : Nat} (x : BitVec w) : Bool := fExp x == 0

/-- An exact value, m times 2 to the e. -/
structure FVal where
  m : Int
  e : Int
  deriving DecidableEq, Repr

/-- Val of a datum that is not the reserved operand (R600): p = w - 8 fraction bits, the first one hidden. -/
def fVal {w : Nat} (x : BitVec w) : FVal :=
  if fExp x = 0 then ⟨0, 0⟩
  else
    let m : Int := ((2 ^ (w - 9) + fFrac x : Nat) : Int)
    ⟨if fSign x then -m else m, (fExp x : Int) - 128 - ((w - 8 : Nat) : Int)⟩

/-- m times 2 to the difference of the exponents e and lo. -/
def alignTo (lo : Int) (a : FVal) : Int := a.m * 2 ^ (a.e - lo).toNat

/-- The exact sum. -/
def FVal.add (a b : FVal) : FVal :=
  let lo := min a.e b.e
  ⟨alignTo lo a + alignTo lo b, lo⟩

/-- The negated value. -/
def FVal.neg (a : FVal) : FVal := ⟨-a.m, a.e⟩

/-- The exact difference. -/
def FVal.sub (a b : FVal) : FVal := a.add b.neg

/-- The exact product. -/
def FVal.mul (a b : FVal) : FVal := ⟨a.m * b.m, a.e + b.e⟩

/-- a is less than b. -/
def FVal.lt (a b : FVal) : Bool := decide ((a.sub b).m < 0)

/-- a equals b. -/
def FVal.eq (a b : FVal) : Bool := (a.sub b).m == 0

/-- The integer part, truncated toward zero (R628). -/
def FVal.trunc (a : FVal) : Int := if 0 ≤ a.e then a.m * 2 ^ a.e.toNat else a.m.tdiv (2 ^ (-a.e).toNat)

/-- The nearest integer, a tie going away from zero (R634). -/
def FVal.round (a : FVal) : Int :=
  if 0 ≤ a.e then a.m * 2 ^ a.e.toNat
  else
    let d := 2 ^ (-a.e).toNat
    let n : Int := (((2 * a.m.natAbs + d) / (2 * d) : Nat) : Int)
    if a.m < 0 then -n else n

/-- The value with its magnitude truncated to k significant bits (R646). -/
def FVal.truncBits (k : Nat) (a : FVal) : FVal :=
  let extra := a.m.natAbs.log2 + 1 - k
  ⟨a.m.tdiv (2 ^ extra), a.e + (extra : Int)⟩

/-- What the storing of a result meets (R602). -/
inductive FEvent where
  | none | overflow | underflow | divZero
  deriving DecidableEq, Repr

/-- A floating result of w bits as stored. -/
structure FResult (w : Nat) where
  r : BitVec w
  event : FEvent
  deriving DecidableEq, Repr

/-- The datum stored on overflow and on divide by zero: sign 1, all else 0 (R602). -/
def reservedDatum (w : Nat) : BitVec w := BitVec.ofNat w 0x8000

/-- The positive ratio num/den rounded to p bits, ties up: its integer significand of p bits and its exponent E, the
value being the significand times 2^(E - p) (R602 step 2). -/
def roundRatio (p num den : Nat) : Nat × Int :=
  let a := num.log2
  let b := den.log2
  let e : Int := (a : Int) - (b : Int) + (if den * 2 ^ a ≤ num * 2 ^ b then 1 else 0)
  let sh : Int := (p : Int) - e
  let n := num * 2 ^ sh.toNat
  let d := den * 2 ^ (-sh).toNat
  let m := (2 * n + d) / (2 * d)
  if m = 2 ^ p then (2 ^ (p - 1), e + 1) else (m, e)

/-- The datum of a sign, an exponent field and a significand with its hidden bit (R600). -/
def packFloat (w : Nat) (sign : Bool) (exp sig : Nat) : BitVec w :=
  swapWords (BitVec.ofNat w ((if sign then 2 ^ (w - 1) else 0) + exp * 2 ^ (w - 9) + sig % 2 ^ (w - 9)))

/-- FStore of num/den times 2^e (R602). -/
def fStoreRatio (w : Nat) (num : Int) (den : Nat) (e : Int) : FResult w :=
  if num = 0 then ⟨0, .none⟩
  else
    let (m, x) := roundRatio (w - 8) num.natAbs den
    let x := x + e
    if 127 < x then ⟨reservedDatum w, .overflow⟩
    else if x < -127 then ⟨0, .underflow⟩
    else ⟨packFloat w (decide (num < 0)) (x + 128).toNat m, .none⟩

/-- FStore of an exact value (R602). -/
def fStore (w : Nat) (v : FVal) : FResult w := fStoreRatio w v.m 1 v.e

/-- FStore of a quotient; by zero, the reserved operand (R602). -/
def fQuotient (w : Nat) (dividend divisor : FVal) : FResult w :=
  if divisor.m = 0 then ⟨reservedDatum w, .divZero⟩
  else
    let num := if divisor.m < 0 then -dividend.m else dividend.m
    fStoreRatio w num divisor.m.natAbs (dividend.e - divisor.e)

/-- EMOD's multiplier: x with eight bits appended to its fraction (R644). -/
def fExtend {w : Nat} (x : BitVec w) (ext : BitVec 8) : FVal :=
  let v := fVal x
  if v.m = 0 then v
  else ⟨v.m * 256 + (if v.m < 0 then -(ext.toNat : Int) else (ext.toNat : Int)), v.e - 8⟩

end Sys2Proof.Machine
end

