-- ==== Sys2Proof/Machine/Translate.lean ====
section
/-! DEFINITION. Address translation and protection (20_memory.md R160 to R190; 10_state.md R115;
70_reset_and_hazards.md R1281). In these operations io tells that the reference is one that may be made in I/O space, so that a
page table may stand there too (R230, D19; log 21). -/
namespace Sys2Proof.Machine
open Sys2Proof

/-- An access mode: 0 kernel, 1 executive, 2 supervisor, 3 user (00_scope.md R24). -/
abbrev Mode := BitVec 2

/-- The region bits of an address (R161). -/
def vaRegion (va : Word) : BitVec 2 := va.extractLsb' 30 2

/-- The index in its region's page table (R161). -/
def vaIndex (va : Word) : Nat := (va.extractLsb' 9 21).toNat

/-- The byte in its page (R160). -/
def vaOffset (va : Word) : Nat := (va.setWidth 9).toNat

/-- The virtual page number (R160). -/
def vaPage (va : Word) : BitVec 23 := va.extractLsb' 9 23

/-- The longword fault parameter (R187): length violation, page table reference, write or modify. -/
def faultWord (l p m : Bool) : Word := bitAt 0 l ||| bitAt 1 p ||| bitAt 2 m

/-- Access control violation fault (R187). -/
def acvFault (va : Word) (l p m : Bool) : Trap := .fault 0x20 [va, faultWord l p m]

/-- Translation not valid fault (R187). -/
def tnvFault (va : Word) (p m : Bool) : Trap := .fault 0x24 [va, faultWord false p m]

/-- The length check (R174). -/
def lengthViolation (r : Ipr) (va : Word) : Bool :=
  match (vaRegion va).toNat with
  | 0 => decide (r.p0lr.toNat ≤ vaIndex va)
  | 1 => decide (vaIndex va < r.p1lr.toNat)
  | 2 => decide (r.slr.toNat ≤ vaIndex va)
  | _ => true

/-- The access check on a protection code (R173). -/
def allowed (code : BitVec 4) (mode : Mode) (write : Bool) : Bool :=
  code != 0 && (code == 4 || mode.ult (~~~(code.setWidth 2)) || (!write && mode.ule (code.extractLsb' 2 2)))

/-- Protection code of a PTE, bits 30:27 (R171). -/
def ptProt (pte : Word) : BitVec 4 := pte.extractLsb' 27 4

/-- Page frame number of a PTE, bits 20:0 (R171). -/
def ptPfn (pte : Word) : Nat := (pte.setWidth 21).toNat

/-- Physical address of the system PTE of a system virtual address (R181). -/
def sysPteAddr (r : Ipr) (va : Word) : Nat := (r.sbr.toNat + 4 * vaIndex va) % 0x40000000

/-- System virtual address of the process PTE of an address (R182, R183). -/
def procPteVa (r : Ipr) (va : Word) : Word :=
  (if vaRegion va = 0 then r.p0br else r.p1br) + BitVec.ofNat 32 (4 * vaIndex va)

/-- The process PTE's address lies outside the system page table (R180 step 2, R184, D16). -/
def procPteOutside (r : Ipr) (va : Word) : Bool :=
  vaRegion (procPteVa r va) != 2 || decide (r.slr.toNat ≤ vaIndex (procPteVa r va))

/-- Physical address of the PTE that maps an address, as the tables in memory stand; none where the walk meets a fault. -/
def pteAddr (s : State) (va : Word) : Option Nat :=
  if vaRegion va = 2 then some (sysPteAddr s.ipr va)
  else if procPteOutside s.ipr va then none
  else
    let pva := procPteVa s.ipr va
    (s.memLong (sysPteAddr s.ipr pva)).bind fun spte =>
      if ptProt spte = 0 ∨ !spte.getLsbD 31 then none else some (ptPfn spte * 512 + vaOffset pva)

/-- The PTE that maps an address, as the tables in memory stand. -/
def walkedPte (s : State) (va : Word) : Option Word := (pteAddr s va).bind s.memLong

/-- The buffer without a page. -/
def tbDrop (tb : List TbEntry) (p : BitVec 23) : List TbEntry := tb.filter fun e => e.vpn != p

/-- A cached PTE is the one the tables in memory hold for an address. -/
def State.holdsPte (s : State) (va : Word) (e : TbEntry) : Bool :=
  pteAddr s va == some e.at_ && s.memLong e.at_ == some e.pte

/-- The registers of the memory map. -/
def State.mapRegs (s : State) : MapRegs :=
  ⟨s.ipr.mapen, s.ipr.sbr, s.ipr.slr, s.ipr.p0br, s.ipr.p0lr, s.ipr.p1br, s.ipr.p1lr⟩

/-- The registers of the memory map replaced. -/
def State.setMapRegs (s : State) (m : MapRegs) : State :=
  { s with ipr := { s.ipr with
      mapen := m.mapen, sbr := m.sbr, slr := m.slr, p0br := m.p0br, p0lr := m.p0lr, p1br := m.p1br, p1lr := m.p1lr } }

/-- The memory map and the page tables as they were before a change. -/
def MapChange.undo (s : State) : MapChange → State
  | .pte pa old => { s with errs := { s.errs with memory := [] } }.setMemValue pa old.toNat 4
  | .regs old => s.setMapRegs old
  | .flush _ => s
  | .flushProcess => s

/-- An invalidation that covers a page. -/
def MapChange.covers (page : BitVec 23) : MapChange → Bool
  | .flush p => p == page
  | .flushProcess => !page.getLsbD 22
  | _ => false

/-- What the tables hold for an address that they map by a valid PTE, memory management being on. -/
def State.validPte (s : State) (va : Word) : Option TbEntry :=
  if !s.ipr.mapen || lengthViolation s.ipr va then none
  else
    match pteAddr s va with
    | none => none
    | some a =>
      match s.memLong a with
      | none => none
      | some w =>
        if w.getLsbD 31 then
          some ⟨vaPage va, w, a, if vaRegion va = 2 then none else some (sysPteAddr s.ipr (procPteVa s.ipr va))⟩
        else none

/-- The PTEs that mapped an address, valid, before each of the changes since an invalidation covered its page, whether used or
not: what the buffer may hold (R1281, D11). -/
def oldPtes (va : Word) : State → List MapChange → List TbEntry
  | _, [] => []
  | s, c :: t =>
    if c.covers (vaPage va) then []
    else
      let before := c.undo s
      let l := oldPtes va before t
      match before.validPte va with
      | some e => if l.contains e then l else e :: l
      | none => l

/-- One of a list of cached PTEs, or none of them, by free bits. -/
def pickEntry : List TbEntry → M (Option TbEntry)
  | [] => pure none
  | e :: t => do
    let b ← drawBit
    if b then pure (some e) else pickEntry t

/-- A PTE cached, beside those the buffer holds. -/
def State.tbFill (s : State) (e : TbEntry) : State := if s.tb.contains e then s else { s with tb := e :: s.tb }

/-- What an address is translated by: one that the tables no longer hold, cached by a reference or by the buffer on its own, or the
one they hold, by a free bit at every reference until an invalidation covers the page (R115, R1281, D11; log 8); where there
is none, what miss finds. -/
def tbOr {α : Type} (va : Word) (hit : TbEntry → α) (miss : M α) : M α := do
  let s ← get
  let page := s.tb.filter fun e => e.vpn == vaPage va
  let unused := (oldPtes va s s.mapLog).filter fun e => !page.contains e
  let old ← pickEntry ((page ++ unused).filter fun e => !s.holdsPte va e)
  match old with
  | some e => pure (hit e)
  | none =>
    match page.find? (s.holdsPte va) with
    | some e => pure (hit e)
    | none => miss

/-- Whether the access is allowed; for the reserved code 1 a free bit decides (R172). -/
def checkAccess (pte : Word) (mode : Mode) (write : Bool) : M Bool :=
  if ptProt pte = 1 then drawBit else pure (allowed (ptProt pte) mode write)

/-- The system PTE of a system virtual address. -/
def fetchSystemPte (io : Bool) (va : Word) : M TbEntry := do
  let s ← get
  let a := sysPteAddr s.ipr va
  let pte ← physReadLong io a
  pure ⟨vaPage va, pte, a, none⟩

/-- The process PTE of an address, its page table page mapped by a system PTE. -/
def fetchProcessPte (io : Bool) (va : Word) (spte : TbEntry) : M TbEntry := do
  let s ← get
  let a := ptPfn spte.pte * 512 + vaOffset (procPteVa s.ipr va)
  let pte ← physReadLong io a
  pure ⟨vaPage va, pte, a, some spte.at_⟩

/-- The system PTE that maps the page table page of a process PTE, fetched by a kernel read (R184). -/
def pageTablePte (io : Bool) (va : Word) (write : Bool) : M TbEntry := do
  let s ← get
  if procPteOutside s.ipr va then raise (acvFault va true true write)
  else do
    let pva := procPteVa s.ipr va
    let spte ← tbOr pva id (fetchSystemPte io pva)
    let ok ← checkAccess spte.pte 0 false
    if !ok then raise (acvFault va false true write)
    else if !spte.pte.getLsbD 31 then raise (tnvFault va true write)
    else do
      modify fun s => s.tbFill spte
      pure spte

/-- The PTE of an address whose length has been checked (R180 step 2, R181 to R183). -/
def fetchPte (io : Bool) (va : Word) (write : Bool) : M TbEntry :=
  tbOr va id do
    if vaRegion va = 2 then fetchSystemPte io va
    else do
      let spte ← pageTablePte io va write
      fetchProcessPte io va spte

/-- The PTE of an address, all checks passed; the modify bit not yet set (R180 steps 1 to 3). -/
def checkedPte (io : Bool) (va : Word) (write : Bool) (mode : Mode) : M TbEntry := do
  let s ← get
  if lengthViolation s.ipr va then raise (acvFault va true false write)
  else do
    let e ← fetchPte io va write
    let ok ← checkAccess e.pte mode write
    if !ok then raise (acvFault va false false write)
    else if !e.pte.getLsbD 31 then raise (tnvFault va false write)
    else do
      modify fun s => s.tbFill e
      pure e

/-- Bit 26 set in the PTE longword at a physical address, which is read, tested and written (R180, R186): in main memory, or in the
register of I/O space that holds it, by two longword transactions (DESIGN CHOICE, log 21: the register is read a second time). -/
def setPteModify (io : Bool) (pa : Nat) : M Unit := do
  let w ← physReadLong io pa
  if pa < ioBase then cpuStore [pa, pa + 1, pa + 2, pa + 3] (setBit w 26 true).toNat
  else ioWriteLong (longOf pa) 0xF false (setBit w 26 true)

/-- Bit 26 set in the PTE at a physical address, where it stands and in the buffer together (R186, R1281). -/
def setModifyAt (io : Bool) (at_ : Nat) : M Unit := do
  setPteModify io at_
  modify fun s =>
    { s with tb := s.tb.map fun e => if e.at_ = at_ then { e with pte := setBit e.pte 26 true } else e }

/-- The modify bit of a PTE set where the PTE stands (R186). Whether setting it in a process PTE sets it in the system PTE of the
page table page is a free bit (R184). -/
def setModify (io : Bool) (e : TbEntry) : M Unit :=
  if e.pte.getLsbD 26 then pure ()
  else do
    modify fun s => s.tbFill e
    setModifyAt io e.at_
    match e.sys with
    | none => pure ()
    | some a => do
      let too ← drawBit
      if too then setModifyAt io a else pure ()

/-- The physical address a PTE gives (R180 step 4). -/
def ptePa (pte va : Word) : Nat := ptPfn pte * 512 + vaOffset va

/-- The physical address with memory management off (R170). -/
def unmappedPa (va : Word) : Nat := (va.setWidth 30).toNat

/-- Translate (R180). -/
def translate (io : Bool) (va : Word) (write : Bool) (mode : Mode) : M Nat := do
  let s ← get
  if !s.ipr.mapen then pure (unmappedPa va)
  else do
    let e ← checkedPte io va write mode
    if write then setModify io e else pure ()
    pure (ptePa e.pte va)

/-- The modify bit of one page of an operand whose other page faults is set or not, a free bit (R186). -/
def maybeModify (io : Bool) (va : Word) (mode : Mode) : M Unit := do
  let b ← drawBit
  if b then tryCatch (do let e ← checkedPte io va true mode; setModify io e) fun _ => pure ()
  else pure ()

/-- The PTEs of the two pages an operand spans, the lower one first (R190, D17). Where one page faults, the other's modify bit is set
or not (R186). -/
def checkedTwo (io : Bool) (va va2 : Word) (write : Bool) (mode : Mode) : M (TbEntry × TbEntry) := do
  let p1 ← tryCatch (checkedPte io va write mode) fun t => do
    if write then maybeModify io va2 mode else pure ()
    raise t
  let p2 ← tryCatch (checkedPte io va2 write mode) fun t => do
    if write then maybeModify io va mode else pure ()
    raise t
  pure (p1, p2)

/-- The physical addresses of the two pages an operand spans (R190). -/
def translateTwo (io : Bool) (va va2 : Word) (write : Bool) (mode : Mode) : M (Nat × Nat) := do
  let (p1, p2) ← checkedTwo io va va2 write mode
  if write then do
    setModify io p1
    setModify io p2
  else pure ()
  pure (ptePa p1.pte va, ptePa p2.pte va2)

/-- The physical addresses of n bytes from pa, in 30 bits. -/
def paRange (pa n : Nat) : List Nat := (List.range n).map fun i => (pa + i) % 0x40000000

/-- The physical addresses of the n bytes of an operand at va, n at most 512 (R190). DESIGN CHOICE (log 56): of the addresses in the
faulting page (R187) a fault saves the operand's own in its first page, and in its second page that page's first. -/
def translateRange (io : Bool) (va : Word) (n : Nat) (write : Bool) (mode : Mode) : M (List Nat) := do
  let s ← get
  if !s.ipr.mapen then pure (paRange (unmappedPa va) n)
  else
    let first := 512 - vaOffset va
    if n ≤ first then do
      let pa ← translate io va write mode
      pure (paRange pa n)
    else do
      let va2 := va + BitVec.ofNat 32 first
      let (p1, p2) ← translateTwo io va va2 write mode
      pure (paRange p1 first ++ paRange p2 (n - first))

/-- An implied probe-write sets the modify bit or not, a free bit (R186). -/
def optionalModify (io : Bool) (e : TbEntry) : M Unit :=
  if e.pte.getLsbD 26 then pure ()
  else do
    let b ← drawBit
    if b then setModify io e else pure ()

/-- The physical addresses of n bytes at va whose write access is checked before any of several results is written
(R190; 45_string_decimal.md R670). -/
def probeRange (io : Bool) (va : Word) (n : Nat) (mode : Mode) : M (List Nat) := do
  let s ← get
  if !s.ipr.mapen then pure (paRange (unmappedPa va) n)
  else
    let first := 512 - vaOffset va
    if n ≤ first then do
      let p1 ← checkedPte io va true mode
      optionalModify io p1
      pure (paRange (ptePa p1.pte va) n)
    else do
      let va2 := va + BitVec.ofNat 32 first
      let (p1, p2) ← checkedTwo io va va2 true mode
      optionalModify io p1
      optionalModify io p2
      pure (paRange (ptePa p1.pte va) first ++ paRange (ptePa p2.pte va2) (n - first))

/-- The PTE a probe examines: none where the address is not accessible whatever the PTE says (R188). -/
def probePte (io : Bool) (va : Word) (write : Bool) : M (Option TbEntry) :=
  tbOr va some do
    let s ← get
    if vaRegion va = 2 then some <$> fetchSystemPte io va
    else if procPteOutside s.ipr va then pure none
    else do
      let pva := procPteVa s.ipr va
      let spte ← tbOr pva id (fetchSystemPte io pva)
      let ok ← checkAccess spte.pte 0 false
      if !ok then pure none
      else if !spte.pte.getLsbD 31 then raise (tnvFault va true write)
      else some <$> fetchProcessPte io va spte

/-- Probe (R188). Whether a write probe sets the modify bit of the valid PTE it finds accessible is a free bit (log 17). -/
def probe (io : Bool) (va : Word) (write : Bool) (mode : Mode) : M Bool := do
  let s ← get
  if !s.ipr.mapen then pure true
  else if lengthViolation s.ipr va then pure false
  else do
    let p ← probePte io va write
    match p with
    | none => pure false
    | some e => do
      let ok ← checkAccess e.pte mode write
      if ok && write && e.pte.getLsbD 31 then optionalModify io e else pure ()
      pure ok

end Sys2Proof.Machine
end

