-- ==== Sys2Proof/Machine/Ops.lean ====
section
/-! DEFINITION. The named operations over registers, the PSL, virtual memory and stacks, taking an exception or
interrupt, and returning from one (10_state.md R40 to R57; 60_exceptions.md R1190 to R1207, R1232; 42_control.md
R500). -/
namespace Sys2Proof.Machine
open Sys2Proof

/-! ### General registers and PSL -/

/-- Register n (R40). -/
def State.reg (s : State) (n : Reg) : Word := s.regs[n]

/-- Register n replaced. -/
def State.setReg (s : State) (n : Reg) (v : Word) : State := { s with regs := s.regs.set n v }

/-- PC (R42). -/
abbrev State.pc (s : State) : Word := s.reg rPC

/-- PC replaced. -/
abbrev State.setPc (s : State) (v : Word) : State := s.setReg rPC v

/-- The active stack pointer (R43). -/
abbrev State.sp (s : State) : Word := s.reg rSP

/-- Register n, in a computation. -/
def getReg (n : Reg) : M Word := fun s => .ok (s.reg n) s

/-- Register n replaced, in a computation. -/
def putReg (n : Reg) (v : Word) : M Unit := modify fun s => s.setReg n v

/-- Bit i of the PSL (R45). -/
def State.pslBit (s : State) (i : Nat) : Bool := s.psl.getLsbD i

/-- PSL CUR (R45). -/
def State.cur (s : State) : Mode := s.psl.extractLsb' 24 2

/-- PSL PRV (R45). -/
def State.prv (s : State) : Mode := s.psl.extractLsb' 22 2

/-- PSL IPL (R51). -/
def State.ipl (s : State) : BitVec 5 := s.psl.extractLsb' 16 5

/-- PSL IS (R45). -/
abbrev State.onIntStack (s : State) : Bool := s.pslBit 26

/-- Positions of the PSL bits (R45). -/
abbrev pslCM : Nat := 31
abbrev pslTP : Nat := 30
abbrev pslFPD : Nat := 27
abbrev pslIS : Nat := 26
abbrev pslDV : Nat := 7
abbrev pslFU : Nat := 6
abbrev pslIV : Nat := 5
abbrev pslT : Nat := 4
abbrev pslN : Nat := 3
abbrev pslZ : Nat := 2
abbrev pslV : Nat := 1
abbrev pslC : Nat := 0

/-- The PSL, in a computation. -/
def getPsl : M Word := fun s => .ok s.psl s

/-- The PSL replaced, in a computation. -/
def putPsl (v : Word) : M Unit := modify fun s => { s with psl := v }

/-- The processor registers, in a computation. -/
def getIpr : M Ipr := fun s => .ok s.ipr s

/-- The processor registers changed. -/
def modifyIpr (f : Ipr → Ipr) : M Unit := modify fun s => { s with ipr := f s.ipr }

/-! ### Stack pointers -/

/-- Number of the active stack pointer: 0 KSP, 1 ESP, 2 SSP, 3 USP, 4 ISP (R43). -/
def State.activeStack (s : State) : Fin 5 :=
  if s.onIntStack then 4 else ⟨s.cur.toNat, Nat.lt_of_lt_of_le s.cur.isLt (by decide)⟩

/-- The stack pointer of a mode. -/
def modeStack (m : Mode) : Fin 5 := ⟨m.toNat, Nat.lt_of_lt_of_le m.isLt (by decide)⟩

/-- GetSP: stack pointer i as MFPR reads it (40_privileged.md section 1). -/
def State.getSp (s : State) (i : Fin 5) : Word := if i = s.activeStack then s.sp else s.spb[i]

/-- SetSP: stack pointer i as MTPR writes it. -/
def State.setSp (s : State) (i : Fin 5) (v : Word) : State :=
  if i = s.activeStack then s.setReg rSP v else { s with spb := s.spb.set i v }

/-- R14 saved in the active stack's cell and loaded from another's (R43). -/
def State.switchStack (s : State) (i : Fin 5) : State :=
  let s := { s with spb := s.spb.set s.activeStack s.sp }
  s.setReg rSP s.spb[i]

/-! ### Virtual memory -/

/-- The n bytes at va, read in a mode; intent tells whether the access check is for writing (20_memory.md R175, R190). -/
def loadVirtIn (mode : Mode) (io ilk intent : Bool) (va : Word) (n : Nat) : M Nat := do
  let pas ← translateRange io va n intent mode
  physLoad io ilk pas

/-- The n low-order bytes of a number stored at va in a mode. -/
def storeVirtIn (mode : Mode) (io ilk : Bool) (va : Word) (n v : Nat) : M Unit := do
  let pas ← translateRange io va n true mode
  physStore io ilk pas v

/-- MemRead in the current mode, of main memory (00_scope.md R15). -/
def memReadN (va : Word) (n : Nat) : M Nat := do
  let s ← get
  loadVirtIn s.cur false false false va n

/-- MemWrite in the current mode, to main memory (R15). -/
def memWriteN (va : Word) (n v : Nat) : M Unit := do
  let s ← get
  storeVirtIn s.cur false false va n v

/-- A longword read in the current mode. -/
def memReadLong (va : Word) : M Word := BitVec.ofNat 32 <$> memReadN va 4

/-- A longword written in the current mode. -/
def memWriteLong (va v : Word) : M Unit := memWriteN va 4 v.toNat

/-- A byte read in the current mode. -/
def memReadByte (va : Word) : M Byte := BitVec.ofNat 8 <$> memReadN va 1

/-- A byte written in the current mode. -/
def memWriteByte (va : Word) (v : Byte) : M Unit := memWriteN va 1 v.toNat

/-- The access check of a write to n bytes at va in a mode, with nothing written (20_memory.md R190). tables: the page table may stand
in I/O space; io: the bytes may. -/
def probeWriteIn (mode : Mode) (tables io : Bool) (va : Word) (n : Nat) : M Unit := do
  let pas ← probeRange tables va n mode
  if touchesIo pas then if io then pure () else raise (.refuse .ioSpaceReference)
  else needMemory pas

/-- The access check of a write to n bytes at va in the current mode. -/
def probeWrite (io : Bool) (va : Word) (n : Nat) : M Unit := do
  let s ← get
  probeWriteIn s.cur io io va n

/-- The write checks of n longwords pushed below an address in a mode, made before the first push (70_reset_and_hazards.md R1285;
93_implementation_defined.md section 7.1: the whole frame is checked first, where 42_control.md R505 would allow one partly
written; log 31). tables as in pushIn. -/
def checkPushesIn (mode : Mode) (tables : Bool) : Nat → Word → M Unit
  | 0, _ => pure ()
  | n + 1, sp => do
    probeWriteIn mode tables false (sp - 4) 4
    checkPushesIn mode tables n (sp - 4)

/-- The write checks of n longwords pushed below an address in the current mode, by an instruction that may not reference I/O
space. -/
def checkPushes (n : Nat) (sp : Word) : M Unit := do
  let s ← get
  checkPushesIn s.cur false n sp

/-- Push in a mode (R15). The stack never lies in I/O space (20_memory.md R230); tables: its page table may, which is so of events, and
of the instructions that may reference I/O space (D19; log 21). -/
def pushIn (mode : Mode) (tables : Bool) (v : Word) : M Unit := do
  let sp ← getReg rSP
  let a := sp - 4
  let pas ← translateRange tables a 4 true mode
  physStore false false pas v.toNat
  putReg rSP a

/-- Pushes in order, the last at the lowest address. -/
def pushAllIn (mode : Mode) (tables : Bool) : List Word → M Unit
  | [] => pure ()
  | v :: vs => do
    pushIn mode tables v
    pushAllIn mode tables vs

/-- Push (R15), by an instruction that may not reference I/O space. -/
def push (v : Word) : M Unit := do
  let s ← get
  pushIn s.cur false v

/-- Push (R15), by one that may. -/
def pushMapped (v : Word) : M Unit := do
  let s ← get
  pushIn s.cur true v

/-- Pop (R15). -/
def pop : M Word := do
  let sp ← getReg rSP
  let v ← memReadLong sp
  putReg rSP (sp + 4)
  pure v

/-- An address lies in I/O space, as the tables in memory map it. -/
def State.pointsToIo (s : State) (va : Word) : Bool :=
  if !s.ipr.mapen then decide (ioBase ≤ unmappedPa va)
  else
    match walkedPte s va with
    | none => false
    | some pte => !lengthViolation s.ipr va && pte.getLsbD 31 && decide (ioBase ≤ ptePa pte va)

/-! ### Transfers of control -/

/-- The instruction buffer is refilled: no byte that was fetched before remains (20_memory.md R229; 70_reset_and_hazards.md
R1284). -/
def State.sync (s : State) : State := { s with stale := [], prefetched := [] }

/-- PC loaded by a taken branch, jump, call or return (00_scope.md R15; 20_memory.md R229). -/
def jumpTo (target : Word) : M Unit := modify fun s => (s.setPc target).sync

/-! ### Taking an exception or interrupt -/

/-- An exception or interrupt about to be initiated (R1190): SCB offset, parameters in the order pushed, the PC and PSL
to save, the new IPL of an interrupt, the new mode of a CHMx. -/
structure Event where
  vec : Nat
  params : List Word
  pc : Word
  psl : Word
  ipl : Option (BitVec 5)
  chm : Option Mode
  deriving DecidableEq, Repr

/-- IS, CUR, PRV and IPL kept; CM, TP, FPD, DV, FU, IV, T, N, Z, V, C and the MBZ bits cleared (R1195). -/
def clearedPsl (p : Word) : Word := p &&& 0x07DF0000

/-- The new PSL (R1190, R1195): code is the vector's code. -/
def eventPsl (e : Event) (old : Word) (code : BitVec 2) : Word :=
  let p := clearedPsl old
  let p := setField p 22 (match e.ipl with | some _ => (0 : BitVec 2) | none => old.extractLsb' 24 2)
  let p := setField p 24 (e.chm.getD 0)
  let p := match e.ipl with
    | some l => setField p 16 l
    | none => if code = 1 then setField p 16 (0x1F : BitVec 5) else p
  if code = 1 then setBit p pslIS true else p

/-- A failed push on the interrupt stack halts, for a memory error too; while a machine check is initiated, that is a second one
(R1205, R1207; log 24). -/
def intStackPush (e : Event) (m : M Unit) : M Unit :=
  tryCatch m fun t =>
    match t with
    | .fault _ _ => raise (.halt .intStackInvalid)
    | .machineCheck pa => raise (if e.vec = 4 then .machineCheck pa else .halt .intStackInvalid)
    | .readData => raise (if e.vec = 4 then .readData else .halt .intStackInvalid)
    | t => raise t

/-- The handling a vector's two low bits ask for (R1161, R1190, R1196, R1197). -/
def vectorCode (e : Event) (vector : Word) : M (BitVec 2) := do
  let s ← get
  let low : BitVec 2 := vector.setWidth 2
  if e.chm.isSome then pure 0
  else if low = 3 ∨ (low = 0 ∧ (e.vec = 4 ∨ e.vec = 8)) then raise (.halt .illegalVector)
  else if low = 2 then
    if s.cfg.wcsBlocks = 0 then raise (.halt .noUserWcs) else raise (.refuse .userMicrocode)
  else pure low

/-- The initiation sequence (R1190), the one shared operation of exceptions, interrupts and CHMx. A fault it raises is a
failed push on the kernel stack, or of a CHMx. -/
def initCore (e : Event) : M Unit := do
  let r ← getIpr
  let vector ← physReadLong true (r.scbb.toNat + e.vec)
  let code ← vectorCode e vector
  let s ← get
  let mode : Mode := e.chm.getD 0
  let pushes := pushAllIn mode true (e.psl :: e.pc :: e.params)
  if s.onIntStack then intStackPush e pushes
  else do
    set (s.switchStack (if code = 1 then 4 else modeStack mode))
    if code = 1 then intStackPush e pushes else pushes
  putPsl (eventPsl e s.psl code)
  jumpTo (vector &&& 0xFFFFFFFC)

/-- The processor halted for a reason; the console enters console command mode and says why (62_console.md R742, R765). -/
def State.halt (s : State) (why : HaltReason) : State :=
  { s with
    run := { halted := true, why := why, haltReq := false, stepsLeft := none }
    console := { s.console with programIo := false }
    outputs := .halted why :: s.outputs }

/-- A halt during an initiation, PC and PSL being those that were to be saved (R1196, R1205): the registers as before it
in s0, all else as in s. -/
def haltDuring (s0 s : State) (e : Event) (why : HaltReason) : State :=
  ({ s with regs := s0.regs.set rPC e.pc, spb := s0.spb, psl := e.psl }).halt why

/-- The registers and the PSL as in s0, all else as in s. -/
def State.withRegsOf (s s0 : State) : State := { s with regs := s0.regs, spb := s0.spb, psl := s0.psl }

/-- What an instruction that began in s0 leaves where a fault or a machine check ends it in s: the registers and the PSL of its start
(R1151, R1192), and no UNIBUS held by a DATIP of the CPU (10_state.md R121). -/
def State.undone (s s0 : State) : State := (s.withRegsOf s0).endDatip

/-- Free longwords, for the information of a machine check (R1206). -/
def drawLongs : Nat → State → List Word × State
  | 0, s => ([], s)
  | n + 1, s =>
    let (ws, s') := drawLongs n { s with free := s.free + 1 }
    ((Config.freeValue s.free).setWidth 32 :: ws, s')

/-- Machine check, vector 04 (R1206); a second one while it is initiated is the double-error halt (R1207). -/
def initiateReadError (pc psl : Word) (s : State) : Host.Outcome State Fault Refusal :=
  let (info, s) := drawLongs s.cfg.mchkLongs s
  let e : Event := ⟨4, info ++ [BitVec.ofNat 32 (4 * s.cfg.mchkLongs)], pc, psl, none, none⟩
  match initCore e s with
  | .ok _ s' => .next s'
  | .error (.machineCheck _) s' => .next (haltDuring s s' e .doubleError)
  | .error .readData s' => .next (haltDuring s s' e .doubleError)
  | .error (.halt why) s' => .next (haltDuring s s' e why)
  | .error (.refuse r) _ => .refused r
  | .error _ s' => .next (haltDuring s s' e .intStackInvalid)

/-- Machine check for a physical address where nothing responds (R1206). SBITA keeps the longword address
(61_cpu_devices.md R1140). -/
def initiateMachineCheck (pa : Nat) (pc psl : Word) (s : State) : Host.Outcome State Fault Refusal :=
  initiateReadError pc psl { s with ipr := { s.ipr with sbita := BitVec.ofNat 32 (pa / 4) } }

/-- Kernel stack not valid abort, vector 08 (R1200). -/
def initiateKernelStackNotValid (pc psl : Word) (s : State) : Host.Outcome State Fault Refusal :=
  let e : Event := ⟨8, [], pc, psl, none, none⟩
  match initCore e s with
  | .ok _ s' => .next s'
  | .error (.machineCheck pa) s' => initiateMachineCheck pa pc psl (s'.withRegsOf s)
  | .error .readData s' => initiateReadError pc psl (s'.withRegsOf s)
  | .error (.halt why) s' => .next (haltDuring s s' e why)
  | .error (.refuse r) _ => .refused r
  | .error _ s' => .next (haltDuring s s' e .intStackInvalid)

/-- Initiate an exception or interrupt (R1190, R1191). -/
def initiate (e : Event) (s : State) : Host.Outcome State Fault Refusal :=
  match initCore e s with
  | .ok _ s' => .next s'
  | .error (.machineCheck pa) s' => initiateMachineCheck pa e.pc e.psl (s'.withRegsOf s)
  | .error .readData s' => initiateReadError e.pc e.psl (s'.withRegsOf s)
  | .error (.halt why) s' => .next (haltDuring s s' e why)
  | .error (.refuse r) _ => .refused r
  | .error _ s' => initiateKernelStackNotValid e.pc e.psl (s'.withRegsOf s)

/-- An exception event of the SCB offset. -/
def exceptionEvent (vec : Nat) (params : List Word) (pc psl : Word) : Event := ⟨vec, params, pc, psl, none, none⟩

/-! ### Returning from an exception or interrupt -/

/-- REI refuses to load this PSL image over the current PSL (42_control.md R500): a gain of privilege, a wrong stack, a
raised IPL, or a must-be-zero bit. -/
def reiRejects (old new : Word) : Bool :=
  let cur (p : Word) : BitVec 2 := p.extractLsb' 24 2
  let ipl (p : Word) : BitVec 5 := p.extractLsb' 16 5
  let is (p : Word) : Bool := p.getLsbD pslIS
  (cur new).ult (cur old) || (is new && !is old) || (is new && cur new != 0) || (is new && ipl new == 0) ||
    (ipl new != 0 && cur new != 0) || (new.extractLsb' 22 2).ult (cur new) || (ipl old).ult (ipl new) ||
    (new &&& 0x3020FF00) != 0

/-- The further checks on an image with CM set (R500). -/
def reiRejectsCompatibility (new : Word) : Bool :=
  new.getLsbD pslFPD || new.getLsbD pslIS || (new &&& 0xE0) != 0 || new.extractLsb' 24 2 != (3 : BitVec 2)

/-- The state REI leaves once its checks pass: pc and psl are the popped images (R500). -/
def State.reiTo (s : State) (pc psl : Word) : State :=
  let psl := if s.pslBit pslTP then setBit psl pslTP true else psl
  let sp := s.sp + 8
  let s := { s with spb := s.spb.set s.activeStack sp, psl := psl }
  let s := (s.setReg rSP sp).setPc pc
  if s.onIntStack then s.sync
  else
    let s := s.setReg rSP s.spb[modeStack s.cur]
    (if s.ipr.astlvl ≤ s.cur.setWidth 3 then { s with ipr := { s.ipr with sisr := setBit s.ipr.sisr 2 true } } else s).sync

/-- Return from exception or interrupt (R500). Compatibility mode is refused after its checks (D2). -/
def returnFromEvent : M Unit := do
  let sp ← getReg rSP
  let pc ← memReadLong sp
  let new ← memReadLong (sp + 4)
  let old ← getPsl
  if reiRejects old new then reservedOperand
  else if new.getLsbD pslCM then
    if reiRejectsCompatibility new then reservedOperand else raise (.refuse .compatibilityMode)
  else modify fun s => s.reiTo pc new

/-! ### Running one instruction -/

/-- How an instruction ends: normally, or with an arithmetic trap code (R1219). -/
inductive Completion where
  | done
  | trap (code : Word)
  deriving DecidableEq, Repr

/-- PSL bit TP cleared. -/
def State.clearTp (s : State) : State := { s with psl := setBit s.psl pslTP false }

/-- What an event that ends an instruction leads to; s0 is the state at its opcode, s the state of the event (R1192,
R1193, R1232 step 5). -/
def endInstr (s0 s : State) : Trap → Host.Outcome State Fault Refusal
  | .fault vec params =>
    let r := (s.undone s0).clearTp
    initiate (exceptionEvent vec params s0.pc r.psl) r
  | .abort vec params =>
    initiate (exceptionEvent vec params s0.pc (setField s.psl 0 (s0.psl.setWidth 4))) s
  | .machineCheck pa => initiateMachineCheck pa s0.pc s0.psl (s.undone s0)
  | .readData => initiateReadError s0.pc s0.psl (s.undone s0)
  | .halt why => .next (s.halt why)
  | .refuse r => .refused r
  | .wait => .next s0.clearTp

/-- The instruction at PC run by its meaning, PC standing past the opcode byte when the meaning starts (30_encoding.md
R243; R1232 step 5). -/
def runInstr (s : State) (m : M Completion) : Host.Outcome State Fault Refusal :=
  match m (s.setPc (s.pc + 1)) with
  | .ok .done s' => .next s'
  | .ok (.trap code) s' => initiate (exceptionEvent 0x34 [code] s'.pc s'.psl) s'
  | .error t s' => endInstr s s' t

end Sys2Proof.Machine
end

