-- ==== Sys2Proof/Machine/Operands.lean ====
section
/-! DEFINITION. Evaluating operand specifiers, reading and writing operands (30_encoding.md R247 to R261, R264 to R266;
20_memory.md R230). -/
namespace Sys2Proof.Machine
open Sys2Proof

/-- Where an operand is (R250). -/
inductive Loc where
  /-- A literal's value. -/
  | const (v : BitVec 64)
  /-- In register n, or in registers n and n+1 for eight bytes. -/
  | reg (n : Reg)
  /-- At a virtual address. -/
  | mem (ea : Word)
  deriving DecidableEq, Repr

/-- PC moved past n bytes of the instruction stream (R243). -/
def advancePc (n : Nat) : M Unit := modify fun s => s.setPc (s.pc + BitVec.ofNat 32 n)

/-- A use of a specifier that the architecture calls UNPREDICTABLE (R266, D20). -/
def unpredictable {α : Type} : M α := raise (.refuse .unpredictableSpecifier)

/-- The value of a short literal (R253). -/
def literalValue (ty : DType) (v : BitVec 6) : BitVec 64 :=
  if ty.isFloat then 0x4000 + (v.setWidth 64 <<< 4) else v.setWidth 64

/-- The pointer of a deferred mode: a data read in the current mode (R257, R259). -/
def readPointer (io : Bool) (va : Word) : M Word := do
  let s ← get
  BitVec.ofNat 32 <$> loadVirtIn s.cur io false false va 4

/-- The register a base specifier adds to. -/
def baseRegister : BaseSpec → Option Reg
  | .imm _ => none
  | .abs _ => none
  | .regDef n => some n
  | .autoDec n => some n
  | .autoInc n => some n
  | .autoIncDef n => some n
  | .dispB n _ => some n
  | .dispBDef n _ => some n
  | .dispW n _ => some n
  | .dispWDef n _ => some n
  | .dispL n _ => some n
  | .dispLDef n _ => some n

/-- The stack pointer that a base specifier makes its operand of size bytes address by: the one stepped down (R255), or the one
before. -/
def addressedSp (size : Nat) (sp : Word) : BaseSpec → Word
  | .autoDec _ => sp - BitVec.ofNat 32 size
  | _ => sp

/-- An operand based on SP while SP points to I/O space is refused (20_memory.md R230, D19). -/
def checkSp (size : Nat) (b : BaseSpec) : M Unit := do
  let s ← get
  if baseRegister b = some rSP ∧ s.pointsToIo (addressedSp size s.sp b) then raise (.refuse .ioSpaceReference) else pure ()

/-- The address a base specifier gives for operands of size bytes, PC standing past the specifier; its register side
effects are applied (R254 to R259, R261). -/
def evalBase (size : Nat) (io : Bool) : BaseSpec → M Word
  | .regDef n => if n = rPC then unpredictable else getReg n
  | .autoDec n =>
    if n = rPC then unpredictable
    else do
      let r ← getReg n
      let a := r - BitVec.ofNat 32 size
      putReg n a
      pure a
  | .autoInc n =>
    if n = rPC then unpredictable
    else do
      let r ← getReg n
      putReg n (r + BitVec.ofNat 32 size)
      pure r
  | .imm _ => do
    let pc ← getReg rPC
    pure (pc - BitVec.ofNat 32 size)
  | .autoIncDef n =>
    if n = rPC then unpredictable
    else do
      let r ← getReg n
      putReg n (r + 4)
      readPointer io r
  | .abs a => pure a
  | .dispB n d => do
    let r ← getReg n
    pure (r + d.signExtend 32)
  | .dispBDef n d => do
    let r ← getReg n
    readPointer io (r + d.signExtend 32)
  | .dispW n d => do
    let r ← getReg n
    pure (r + d.signExtend 32)
  | .dispWDef n d => do
    let r ← getReg n
    readPointer io (r + d.signExtend 32)
  | .dispL n d => do
    let r ← getReg n
    pure (r + d)
  | .dispLDef n d => do
    let r ← getReg n
    readPointer io (r + d)

/-- The index register is also stepped by the base specifier, or the base is immediate (R260). -/
def indexUnpredictable (x : Reg) : BaseSpec → Bool
  | .autoDec n => n == x
  | .autoInc n => n == x
  | .autoIncDef n => n == x
  | .imm _ => true
  | _ => false

/-- Where an operand of an access type and data type is; PC moves past the specifier (R250 to R261, R265, R266). io: a
pointer may lie in I/O space. DESIGN CHOICE (log 12): a specifier that is both reserved and UNPREDICTABLE, such as PC, or SP for
eight bytes, in register mode as an address, or an index register PC on a base that is UNPREDICTABLE, takes the reserved
addressing mode fault. -/
def locate (acc : Access) (ty : DType) (io : Bool) (sp : Spec) : M Loc := do
  advancePc (sp.length ty)
  match sp with
  | .lit v => if acc = .read then pure (.const (literalValue ty v)) else reservedAddressing
  | .reg n =>
    if acc = .address then reservedAddressing
    else if n = rPC ∨ (n = rSP ∧ ty.size = 8) then unpredictable
    else pure (.reg n)
  | .base (.imm v) =>
    if acc = .write ∨ acc = .modify then unpredictable
    else if acc = .read then pure (.const v)
    else .mem <$> evalBase ty.size io (.imm v)
  | .base b => do
    checkSp ty.size b
    .mem <$> evalBase ty.size io b
  | .index x b =>
    if x = rPC then reservedAddressing
    else if indexUnpredictable x b then unpredictable
    else do
      checkSp ty.size b
      let base ← evalBase ty.size io b
      let r ← getReg x
      pure (.mem (base + r * BitVec.ofNat 32 ty.size))
  | .indexBad _ _ => reservedAddressing

/-- The value of w bits of registers n (and n+1) (10_state.md R40). -/
def State.regValue (s : State) (w : Nat) (n : Reg) : BitVec w :=
  if w ≤ 32 then (s.reg n).setWidth w else (s.reg (n + 1) ++ s.reg n).setWidth w

/-- A value of w bits written to register n (and n+1): a byte or word leaves the other bits (R40, R250). -/
def State.setRegValue (s : State) {w : Nat} (n : Reg) (v : BitVec w) : State :=
  if w ≤ 32 then s.setReg n (setField (s.reg n) 0 v)
  else (s.setReg n (v.setWidth 32)).setReg (n + 1) (v.extractLsb' 32 32)

/-- The operand of w bits at a place. intent: checked for writing, as the read half of a modify operand is; ilk: read by
an interlocked transaction in UNIBUS space (20_memory.md R175, R232). -/
def loadLoc (w : Nat) (io ilk intent : Bool) : Loc → M (BitVec w)
  | .const v => pure (v.setWidth w)
  | .reg n => fun s => .ok (s.regValue w n) s
  | .mem ea => do
    let s ← get
    BitVec.ofNat w <$> loadVirtIn s.cur io ilk intent ea (w / 8)

/-- A value of w bits written at a place (R250). -/
def storeLoc {w : Nat} (io ilk : Bool) (l : Loc) (v : BitVec w) : M Unit :=
  match l with
  | .const _ => reservedAddressing
  | .reg n => modify fun s => s.setRegValue n v
  | .mem ea => do
    let s ← get
    storeVirtIn s.cur io ilk ea (w / 8) v.toNat

/-- The write checks of a place, made before the first of several results is stored (20_memory.md R190). -/
def checkStore (io : Bool) (w : Nat) : Loc → M Unit
  | .mem ea => probeWrite io ea (w / 8)
  | _ => pure ()

/-- An interlocked reference waits while another agent holds the SBI interlock (20_memory.md R226;
64_memory_controller.md R870). -/
def awaitInterlock : M Unit := do
  let s ← get
  if s.bus.intlk then raise .wait else pure ()

/-- The integer data type of w bits. -/
def intType (w : Nat) : DType := if w = 8 then .b else if w = 16 then .w else if w = 32 then .l else .q

/-- I/O space takes byte, word and longword operands only (20_memory.md R230). -/
def intIo (w : Nat) : Bool := decide (w ≤ 32)

/-- A read operand of w bits that may not lie in I/O space where io is off (R250, R251). -/
def readInt (w : Nat) (io : Bool) (sp : Spec) : M (BitVec w) := do
  let l ← locate .read (intType w) io sp
  loadLoc w io false false l

/-- A read operand of an integer instruction; io is off in one that may not reference I/O space (20_memory.md R230). -/
def readOp (w : Nat) (sp : Spec) (io : Bool := intIo w) : M (BitVec w) := readInt w io sp

/-- The place of a write operand of w bits. -/
def writeOp (w : Nat) (sp : Spec) (io : Bool := intIo w) : M Loc := locate .write (intType w) io sp

/-- A modify operand of w bits is read and written by interlocked transactions in UNIBUS space: a byte or a word
(20_memory.md R232). -/
def interlocks (w : Nat) : Bool := decide (w ≤ 16)

/-- The place and the value of a modify operand of w bits. -/
def modifyOp (w : Nat) (sp : Spec) (io : Bool := intIo w) : M (Loc × BitVec w) := do
  let l ← locate .modify (intType w) io sp
  let v ← loadLoc w io (interlocks w) true l
  pure (l, v)

/-- The result of an integer instruction stored in its last operand. -/
def storeOp {w : Nat} (l : Loc) (v : BitVec w) (io : Bool := intIo w) : M Unit := storeLoc io false l v

/-- The write half of a modify operand, after which the CPU holds no UNIBUS (10_state.md R121). -/
def storeBack {w : Nat} (l : Loc) (v : BitVec w) (io : Bool := intIo w) : M Unit := do
  storeLoc io (interlocks w) l v
  if io && interlocks w then modify State.endDatip else pure ()

/-- The word at an address, read by an interlocked transaction for an instruction that promises the interlock. In I/O space only
a UNIBUS keeps that promise (20_memory.md R232; 93_implementation_defined.md X7, D19). -/
def loadInterlocked (ea : Word) : M (BitVec 16) := do
  let s ← get
  let pas ← translateRange true ea 2 true s.cur
  if pas.any fun a => decide (ioBase ≤ a) && !inUnibus a then raise (.refuse .ioSpaceReference)
  else BitVec.ofNat 16 <$> physLoad true true pas

/-- A modify operand that may not lie in I/O space: a loop index, which is not the last operand (20_memory.md R230). -/
def modifyInMemory (w : Nat) (ty : DType) (sp : Spec) : M (Loc × BitVec w) := do
  let l ← locate .modify ty false sp
  let v ← loadLoc w false false true l
  pure (l, v)

/-- The address an operand of access type a delivers (R250); ty gives the context only. io: a pointer it defers through may
lie in I/O space. -/
def addressOp (ty : DType) (io : Bool) (sp : Spec) : M Word := do
  let l ← locate .address ty io sp
  match l with
  | .mem ea => pure ea
  | _ => reservedAddressing

/-- The target of a byte branch displacement: the updated PC plus the displacement (R264). -/
def branchTargetB (d : BitVec 8) : M Word := do
  advancePc 1
  let pc ← getReg rPC
  pure (pc + d.signExtend 32)

/-- The target of a word branch displacement (R264). -/
def branchTargetW (d : BitVec 16) : M Word := do
  advancePc 2
  let pc ← getReg rPC
  pure (pc + d.signExtend 32)

/-- The opcodes whose operands may lie in I/O space (20_memory.md R230): PROBEx; the moves, conversions, sums, comparisons and
logical instructions of bytes, words and longwords; CASEx, MOVAx, PUSHAx, PUSHL, BISPSW, BICPSW, CHMx, MTPR, MFPR, MOVPSL,
ADAWI, BLBx. -/
def ioOpcodes : List Nat :=
  [0x0C, 0x0D, 0x32, 0x33, 0x3C, 0x3E, 0x3F, 0x58, 0x7E, 0x7F, 0x80, 0x81, 0x82, 0x83, 0x88, 0x89, 0x8A, 0x8B, 0x8C, 0x8D,
   0x8E, 0x8F] ++
  [0x90, 0x91, 0x92, 0x93, 0x94, 0x95, 0x96, 0x97, 0x98, 0x99, 0x9A, 0x9B, 0x9E, 0x9F, 0xA0, 0xA1, 0xA2, 0xA3, 0xA8, 0xA9,
   0xAA, 0xAB, 0xAC, 0xAD, 0xAE, 0xAF] ++
  [0xB0, 0xB1, 0xB2, 0xB3, 0xB4, 0xB5, 0xB6, 0xB7, 0xB8, 0xB9, 0xBC, 0xBD, 0xBE, 0xBF, 0xC0, 0xC1, 0xC2, 0xC3, 0xC8, 0xC9,
   0xCA, 0xCB, 0xCC, 0xCD, 0xCE, 0xCF] ++
  [0xD0, 0xD1, 0xD2, 0xD3, 0xD4, 0xD5, 0xD6, 0xD7, 0xD8, 0xD9, 0xDA, 0xDB, 0xDC, 0xDD, 0xDE, 0xDF, 0xE8, 0xE9, 0xF6, 0xF7]

/-- An operand of kind k of an opcode may lie in I/O space: in the instructions listed, and the destination of REMQUE (0F)
(20_memory.md R230). -/
def operandIo (op : Byte) (k : Kind) : Bool :=
  (ioOpcodes.contains op.toNat || (op == 0x0F && k.acc == .write)) && (k.acc == .address || decide (k.ty.size ≤ 4))

/-- Reserved operand fault for the reserved floating operand (44_float.md R601), which comes after every specifier has been evaluated
(60_exceptions.md R1231; log 47). -/
def checkFloat {w : Nat} (x : BitVec w) : M Unit := if fReserved x then reservedOperand else pure ()

/-- One operand evaluated as its kind says, its value dropped and not checked: what precedes a fault on fetching the bytes of a later
operand (60_exceptions.md R1231). -/
def touchOperand (io : Bool) (k : Kind) : Operand → M Unit
  | .spec sp => do
    let l ← locate k.acc k.ty io sp
    let w := 8 * k.ty.size
    if k.acc = .read ∨ k.acc = .modify then do
      let _ ← loadLoc w io (k.acc = .modify && interlocks w) (k.acc = .modify) l
    else pure ()
  | .dispB _ => advancePc 1
  | .dispW _ => advancePc 2

/-- Operands of an opcode evaluated in order. -/
def touchOperands (op : Byte) : List (Kind × Operand) → M Unit
  | [] => pure ()
  | (k, o) :: t => do
    touchOperand (operandIo op k) k o
    touchOperands op t

end Sys2Proof.Machine
end

