-- ==== Sys2Proof/Machine/Registers.lean ====
section
/-! DEFINITION. The processor registers as MTPR and MFPR see them (10_state.md R55 to R97; 61_cpu_devices.md R1080 to
R1146). -/
namespace Sys2Proof.Machine
open Sys2Proof

/-! ### Interval clock -/

/-- IE and INT. -/
def Iccs.asserted (c : Iccs) : Bool := c.ie && c.int

/-- Count: the interval counter counts once (61_cpu_devices.md R1085). -/
def Ipr.count (r : Ipr) : Ipr :=
  if r.icr = 0xFFFFFFFF then
    { r with
      icr := r.nicr
      iccs := { r.iccs with err := r.iccs.err || r.iccs.int, int := true }
      timerReq := r.timerReq || (r.iccs.ie && !r.iccs.asserted) }
  else { r with icr := r.icr + 1 }

/-- MTPR to ICCS, its effects in the order of R1086. -/
def Ipr.writeIccs (r : Ipr) (v : Word) : Ipr :=
  let old := r.iccs.asserted
  let c : Iccs :=
    { err := r.iccs.err && !v.getLsbD 31, int := r.iccs.int && !v.getLsbD 7, ie := v.getLsbD 6, run := v.getLsbD 0 }
  let r := { r with iccs := c, icr := if v.getLsbD 4 then r.nicr else r.icr }
  let r := if v.getLsbD 5 ∧ !c.run then r.count else r
  let new := r.iccs.asserted
  { r with timerReq := new && (r.timerReq || !old) }

/-- ICCS as it reads (10_state.md R73). -/
def Iccs.word (c : Iccs) : Word := bitAt 31 c.err ||| bitAt 7 c.int ||| bitAt 6 c.ie ||| bitAt 0 c.run

/-! ### Console terminal registers -/

/-- MTPR to RXCS: IE; the request follows IE and DONE (61_cpu_devices.md R1090). -/
def Ipr.writeRxcs (r : Ipr) (v : Word) : Ipr :=
  let ie := v.getLsbD 6
  { r with rxIe := ie, rxReq := ie && (r.rxReq || (r.rxDone && !r.rxIe)) }

/-- MTPR to TXCS (R1091). -/
def Ipr.writeTxcs (r : Ipr) (v : Word) : Ipr :=
  let ie := v.getLsbD 6
  { r with txIe := ie, txReq := ie && (r.txReq || (r.txRdy && !r.txIe)) }

/-! ### Writable control store -/

/-- WCSA as a longword: address 12:0, CTR 14:13, PIN 15 (10_state.md R87; the places of CTR and PIN are PRESUMED, log 18). -/
def Ipr.wcsa (r : Ipr) : Word := r.wcsAddr.setWidth 32 ||| (r.wcsCtr.setWidth 32 <<< 13) ||| bitAt 15 r.wcsPin

/-- MTPR to WCSD (R88; 61_cpu_devices.md R1110): a third of a microword stored where its block is writable, then CTR and
the address advance. DESIGN CHOICE (log 48): after CTR has been loaded with 3, which selects no third, the longword is kept as
third 3, CTR becomes 0 and the address stays. -/
def Ipr.writeWcsd (r : Ipr) (blocks : Byte) (v : Word) : Ipr :=
  let ctr := r.wcsCtr + 1
  { r with
    wcs := if blocks.getLsbD (r.wcsAddr.toNat / 1024) then ⟨r.wcsAddr, r.wcsCtr, r.wcsPin, v⟩ :: r.wcs else r.wcs
    wcsCtr := if ctr = 3 then 0 else ctr
    wcsAddr := if ctr = 3 then r.wcsAddr + 1 else r.wcsAddr }

/-! ### Checks on base registers -/

/-- A value P0BR takes: a longword address in system space (R61). -/
def validP0br (v : Word) : Bool := v.extractLsb' 30 2 == (2 : BitVec 2) && v.extractLsb' 0 2 == (0 : BitVec 2)

/-- A value P1BR takes (R63). -/
def validP1br (v : Word) : Bool := validP0br (v + 0x00800000)

/-! ### The memory map -/

/-- The registers of the memory map changed: a change that only TBIA, or LDPCTX for process pages, makes good
(70_reset_and_hazards.md R1281). -/
def modifyMap (f : Ipr → Ipr) : M Unit := modify fun s =>
  let t := s.noteChanges [.regs s.mapRegs]
  { t with ipr := f t.ipr }

/-- TBIA (10_state.md R115): the buffer holds nothing. -/
def State.flushAll (s : State) : State := { s with tb := [], mapLog := [] }

/-- TBIS: the buffer holds nothing for a page. -/
def State.flushPage (s : State) (page : BitVec 23) : State := { s with tb := tbDrop s.tb page }.noteChanges [.flush page]

/-! ### Reads -/

/-- A field of the processor registers, read. -/
def readField (f : Ipr → Word) : M Word := f <$> getIpr

/-- The low-order bits of a drawn word that a mask selects, the others from v. -/
def drawMasked (mask v : Word) : M Word := do
  let d ← draw 32
  pure ((d &&& mask) ||| (v &&& ~~~mask))

/-- MFPR of register n: reserved operand fault for a write-only or nonexistent one (40_privileged.md R331; 10_state.md R56).
SBIS and SBITA are free values (61_cpu_devices.md R1140, D10). -/
def readIpr (n : Nat) : M Word := do
  let s ← get
  match n with
  | 0 => pure (s.getSp 0)
  | 1 => pure (s.getSp 1)
  | 2 => pure (s.getSp 2)
  | 3 => pure (s.getSp 3)
  | 4 => pure (s.getSp 4)
  | 8 => readField (·.p0br)
  | 9 => readField (·.p0lr.setWidth 32)
  | 10 => readField (·.p1br)
  | 11 => readField (·.p1lr.setWidth 32)
  | 12 => readField (·.sbr)
  | 13 => readField (·.slr.setWidth 32)
  | 16 => readField (·.pcbb)
  | 17 => readField (·.scbb)
  | 18 => pure (s.ipl.setWidth 32)
  | 19 => readField (·.astlvl.setWidth 32)
  | 21 => readField (·.sisr.setWidth 32)
  | 24 => readField (·.iccs.word)
  | 26 => readField (·.icr)
  | 27 => if s.cfg.todrPresent then readField (·.todr) else pure 0
  | 32 => readField fun r => bitAt 7 r.rxDone ||| bitAt 6 r.rxIe
  | 33 => do
    modifyIpr fun r => { r with rxDone := false, rxReq := false }
    pure s.ipr.rxdb
  | 34 => readField fun r => bitAt 7 r.txRdy ||| bitAt 6 r.txIe
  | 40 => pure (if s.cfg.fpaPresent then bitAt 15 s.ipr.accsEnb ||| 1 else 0)
  | 41 => drawMasked 0x1FF (s.ipr.accrTrap.setWidth 32 <<< 16)
  | 44 => readField (·.wcsa)
  | 45 => pure (s.cfg.wcsBlocks.setWidth 32)
  | 48 => readField (·.sbifs)
  | 49 => draw 32
  | 50 => readField (·.sbisc)
  | 51 => readField (·.sbimt)
  | 52 => readField (·.sbier)
  | 53 => draw 32
  | 56 => readField fun r => bitAt 0 r.mapen
  | 60 => readField (·.mbrk.setWidth 32)
  | 61 => readField fun r => bitAt 0 r.pme
  | 62 => pure (setField s.cfg.sid 24 (1 : Byte))
  | _ => reservedOperand

/-! ### Writes -/

/-- MTPR to register n: reserved operand fault for a read-only or nonexistent one and for a value the register does not
take (40_privileged.md R330; 10_state.md R56 to R97). A write of SBIQC is ignored (D10). DESIGN CHOICE (log 33): bits 31:13 of MBRK
are ignored, and read as 0 (R90). -/
def writeIpr (n : Nat) (v : Word) : M Unit := do
  let s ← get
  match n with
  | 0 => set (s.setSp 0 v)
  | 1 => set (s.setSp 1 v)
  | 2 => set (s.setSp 2 v)
  | 3 => set (s.setSp 3 v)
  | 4 => set (s.setSp 4 v)
  | 8 => if validP0br v then modifyMap fun r => { r with p0br := v } else reservedOperand
  | 9 => modifyMap fun r => { r with p0lr := v.setWidth 22 }
  | 10 => if validP1br v then modifyMap fun r => { r with p1br := v } else reservedOperand
  | 11 => modifyMap fun r => { r with p1lr := v.setWidth 22 }
  | 12 => modifyMap fun r => { r with sbr := v &&& 0x3FFFFFFC }
  | 13 => modifyMap fun r => { r with slr := v.setWidth 22 }
  | 16 => modifyIpr fun r => { r with pcbb := v &&& 0x3FFFFFFC }
  | 17 => modifyIpr fun r => { r with scbb := v &&& 0x3FFFFE00 }
  | 18 => putPsl (setField s.psl 16 (v.setWidth 5))
  | 19 =>
    if (v.setWidth 3 : BitVec 3).toNat < 5 then modifyIpr fun r => { r with astlvl := v.setWidth 3 }
    else reservedOperand
  | 20 =>
    let k := (v.setWidth 4 : BitVec 4).toNat
    if k = 0 then pure () else modifyIpr fun r => { r with sisr := setBit r.sisr k true }
  | 21 => modifyIpr fun r => { r with sisr := v.setWidth 16 &&& 0xFFFE }
  | 24 => modifyIpr fun r => r.writeIccs v
  | 25 => modifyIpr fun r => { r with nicr := v }
  | 27 => if s.cfg.todrPresent then modifyIpr fun r => { r with todr := v } else pure ()
  | 32 => modifyIpr fun r => r.writeRxcs v
  | 34 => modifyIpr fun r => r.writeTxcs v
  | 35 => modifyIpr fun r => { r with txdb := v, txRdy := false, txReq := false }
  | 40 => if s.cfg.fpaPresent then modifyIpr fun r => { r with accsEnb := v.getLsbD 15 } else pure ()
  | 41 => modifyIpr fun r => { r with accrTrap := v.extractLsb' 16 8 }
  | 44 => modifyIpr fun r =>
    { r with wcsAddr := v.setWidth 13, wcsCtr := v.extractLsb' 13 2, wcsPin := v.getLsbD 15 }
  | 45 => modifyIpr fun r => r.writeWcsd s.cfg.wcsBlocks v
  | 48 => modifyIpr fun r => { r with sbifs := v }
  | 50 => modifyIpr fun r => { r with sbisc := v }
  | 51 => modifyIpr fun r => { r with sbimt := v }
  | 52 => modifyIpr fun r => { r with sbier := v }
  | 54 => pure ()
  | 56 => modifyMap fun r => { r with mapen := v.getLsbD 0 }
  | 57 => modify State.flushAll
  | 58 => modify fun s => s.flushPage (vaPage v)
  | 60 => modifyIpr fun r => { r with mbrk := v.setWidth 13 }
  | 61 => modifyIpr fun r => { r with pme := v.getLsbD 0 }
  | _ => reservedOperand

end Sys2Proof.Machine
end

