-- ==== Sys2Proof/Machine/ConsoleOps.lean ====
section
/-! DEFINITION. The console's commands (62_console.md R741 to R762, R771; 10_state.md R98, R130). -/
namespace Sys2Proof.Machine
open Sys2Proof

/-! ### EXAMINE and DEPOSIT -/

/-- Bytes of a data length (R746). -/
def ConsoleLength.bytes : ConsoleLength → Nat
  | .byte => 1 | .word => 2 | .long => 4 | .quad => 8

/-- Distance to the next address: one register, or the data length (R747). -/
def ConsoleSpace.stride (len : ConsoleLength) : ConsoleSpace → Word
  | .internal => 1
  | .general => 1
  | .idBus => 1
  | .vBus => 1
  | _ => BitVec.ofNat 32 len.bytes

/-- The address a command means (R747). -/
def Console.resolve (c : Console) : ConsoleAddr → Word
  | .at a => a
  | .last => c.lastAddr
  | .following => c.lastAddr + c.lastSpace.stride c.lastLength
  | .preceding => c.lastAddr - c.lastSpace.stride c.lastLength
  | .lastDatum => c.lastData.setWidth 32

/-- An address relative to the last one, whose missing qualifiers are the last command's (log 19). -/
def ConsoleAddr.relative : ConsoleAddr → Bool
  | .at _ => false
  | .lastDatum => false
  | _ => true

/-- The space of a command (R747, R755). -/
def Console.spaceOf (c : Console) (q : Option ConsoleSpace) (a : ConsoleAddr) : ConsoleSpace :=
  q.getD (if a.relative then c.lastSpace else c.space)

/-- The data length of a command (R747, R755). -/
def Console.lengthOf (c : Console) (q : Option ConsoleLength) (a : ConsoleAddr) : ConsoleLength :=
  q.getD (if a.relative then c.lastLength else c.length)

/-- The physical addresses of n bytes of memory or I/O space that a physical or virtual command means; virtual references
are checked as kernel's (R748, R755, D25). DESIGN CHOICE (log 54): bits 31:30 of a physical address are dropped (R746). -/
def consoleAddrs (virt : Bool) (a : Word) (n : Nat) (write : Bool) : M (List Nat) := do
  let s ← get
  let ea := a + s.console.relocation
  if virt then translateRange true ea n write 0 else pure (paRange (unmappedPa ea) n)

/-! #### The ID bus -/

/-- The register at an ID-bus address as the console's maintenance read sees it, without the side effects of MFPR (10_state.md
R98; 61_cpu_devices.md R1144; R748, R771). Address C holds ASTLVL and PMR beside microcode status, which is drawn; address F is
the PSL (log 53). The registers without a processor address are left alone (D25). -/
def readIdBus (a : Nat) : M Word := do
  let s ← get
  match a with
  | 0x01 => readIpr 27
  | 0x03 => readIpr 62
  | 0x04 => readIpr 32
  | 0x05 => pure s.ipr.rxdb
  | 0x06 => readIpr 34
  | 0x07 => pure s.ipr.txdb
  | 0x09 => pure s.ipr.nicr
  | 0x0A => readIpr 24
  | 0x0B => readIpr 26
  | 0x0C => drawMasked 0xFFFFFFF0 (s.ipr.astlvl.setWidth 32 ||| bitAt 3 s.ipr.pme)
  | 0x0E => readIpr 21
  | 0x0F => pure s.psl
  | 0x17 => readIpr 40
  | 0x18 => readIpr 49
  | 0x19 => readIpr 52
  | 0x1A => readIpr 53
  | 0x1B => readIpr 48
  | 0x1C => readIpr 50
  | 0x1D => readIpr 51
  | 0x21 => readIpr 60
  | 0x22 => readIpr 44
  | 0x23 => readIpr 45
  | 0x24 => readIpr 8
  | 0x25 => readIpr 10
  | 0x26 => readIpr 12
  | 0x28 => readIpr 0
  | 0x29 => readIpr 1
  | 0x2A => readIpr 2
  | 0x2B => readIpr 3
  | 0x2C => readIpr 4
  | 0x3A => readIpr 16
  | 0x3B => readIpr 17
  | 0x3C => readIpr 9
  | 0x3D => readIpr 11
  | 0x3E => readIpr 13
  | _ => raise (.refuse .turnNotEnabled)

/-- The PSL replaced from outside an instruction: R14 follows to the stack the new PSL selects (10_state.md R43). -/
def State.changePsl (s : State) (v : Word) : State :=
  let i := { s with psl := v }.activeStack
  if i = s.activeStack then { s with psl := v } else { s.switchStack i with psl := v }

/-- A PSL the console is given; it gives none with must-be-zero bits (D25). -/
def writePsl (v : Word) : M Unit :=
  if v &&& 0x3020FF00 ≠ 0 then raise (.refuse .turnNotEnabled) else modify fun s => s.changePsl v

/-- A longword written at an ID-bus address (R771). DESIGN CHOICE (log 53): it acts as MTPR to the processor register; the registers
that MTPR cannot write take the longword where the machine keeps one, RXDB, ICR and SBITA, and a write of SID or SBIS has no
effect; address C writes ASTLVL and PMR. -/
def writeIdBus (a : Nat) (v : Word) : M Unit :=
  match a with
  | 0x01 => writeIpr 27 v
  | 0x03 => pure ()
  | 0x04 => writeIpr 32 v
  | 0x05 => modifyIpr fun r => { r with rxdb := v }
  | 0x06 => writeIpr 34 v
  | 0x07 => writeIpr 35 v
  | 0x09 => writeIpr 25 v
  | 0x0A => writeIpr 24 v
  | 0x0B => modifyIpr fun r => { r with icr := v }
  | 0x0C => do
    writeIpr 19 v
    writeIpr 61 (v >>> 3)
  | 0x0E => writeIpr 21 v
  | 0x0F => writePsl v
  | 0x17 => writeIpr 40 v
  | 0x18 => pure ()
  | 0x19 => writeIpr 52 v
  | 0x1A => modifyIpr fun r => { r with sbita := v }
  | 0x1B => writeIpr 48 v
  | 0x1C => writeIpr 50 v
  | 0x1D => writeIpr 51 v
  | 0x21 => writeIpr 60 v
  | 0x22 => writeIpr 44 v
  | 0x23 => writeIpr 45 v
  | 0x24 => writeIpr 8 v
  | 0x25 => writeIpr 10 v
  | 0x26 => writeIpr 12 v
  | 0x28 => writeIpr 0 v
  | 0x29 => writeIpr 1 v
  | 0x2A => writeIpr 2 v
  | 0x2B => writeIpr 3 v
  | 0x2C => writeIpr 4 v
  | 0x3A => writeIpr 16 v
  | 0x3B => writeIpr 17 v
  | 0x3C => writeIpr 9 v
  | 0x3D => writeIpr 11 v
  | 0x3E => writeIpr 13 v
  | _ => raise (.refuse .turnNotEnabled)

/-! #### The spaces -/

/-- The low-order n bytes of a datum. -/
def lowBytes (n : Nat) (v : BitVec 64) : BitVec 64 := BitVec.ofNat 64 (v.toNat % 256 ^ n)

/-- The general register of a number (R746). A number above F gets ?INT-REG ERR (DESIGN CHOICE, log 54). -/
def consoleReg (a : Word) : M Reg :=
  if h : a.toNat < 16 then pure ⟨a.toNat, h⟩ else reservedOperand

/-- What EXAMINE displays (R746, R748). DESIGN CHOICE (log 53): a quadword of the processor registers or of the ID bus is one
register, zero-extended. The V bus brings diagnostic test points, of which the model knows nothing (R772). -/
def consoleRead (space : ConsoleSpace) (n : Nat) (a : Word) : M (BitVec 64) :=
  match space with
  | .physical => do
    let pas ← consoleAddrs false a n false
    BitVec.ofNat 64 <$> physLoad true false pas
  | .virtual => do
    let pas ← consoleAddrs true a n false
    BitVec.ofNat 64 <$> physLoad true false pas
  | .internal => do
    let v ← readIpr a.toNat
    pure (lowBytes n (v.setWidth 64))
  | .idBus => do
    let v ← readIdBus a.toNat
    pure (lowBytes n (v.setWidth 64))
  | .vBus => do
    let v ← draw 32
    pure (lowBytes n (v.setWidth 64))
  | .general => do
    let r ← consoleReg a
    let s ← get
    pure (lowBytes n (s.regValue 64 r))

/-- What DEPOSIT does (R746, R748). A processor register is written whole, with the datum's n bytes zero-extended and those of
a quadword above the low-order longword dropped (DESIGN CHOICE, log 53); a quadword at register F continues at R0 (DESIGN CHOICE, log
54). DESIGN CHOICE (log 54): of a datum wider than the data length the low-order bytes are stored, with no message. The V bus takes no
deposit. -/
def consoleWrite (space : ConsoleSpace) (n : Nat) (a : Word) (v : BitVec 64) : M Unit :=
  match space with
  | .physical => do
    let pas ← consoleAddrs false a n true
    physStore true false pas v.toNat
  | .virtual => do
    let pas ← consoleAddrs true a n true
    physStore true false pas v.toNat
  | .internal => writeIpr a.toNat ((lowBytes n v).setWidth 32)
  | .idBus => writeIdBus a.toNat ((lowBytes n v).setWidth 32)
  | .vBus => raise (.refuse .turnNotEnabled)
  | .general => do
    let r ← consoleReg a
    modify fun s =>
      if n = 1 then s.setRegValue r (v.setWidth 8 : BitVec 8)
      else if n = 2 then s.setRegValue r (v.setWidth 16 : BitVec 16)
      else if n = 4 then s.setRegValue r (v.setWidth 32 : BitVec 32)
      else s.setRegValue r v

/-- ?MIC-ERR ON FUNCTION, with the SBI error registers after it (R761): SBIFS, SBIER and SBITA. DESIGN CHOICE (log 54): which
registers these are, and that a reference of the console that nothing answers does not latch its own address in SBITA first; the
dump shows the address that the last machine check left there, or the value of reset. -/
def State.emitMicErr (s : State) : State := s.emit (.micErr s.ipr.sbifs s.ipr.sbier s.ipr.sbita)

/-- A command that failed changes nothing, but for what a memory error is logged in, and tells why (R761, R762). A value that a
processor register does not take is told as a register that does not exist, and a UNIBUS that a device holds as ?MIC-ERR ON FUNCTION (DESIGN CHOICE, log 54). -/
def consoleError (s s' : State) : Trap → TurnOutcome
  | .refuse r => .refused r
  | .fault 0x20 [_, w] => .next ({ s with free := s'.free, errs := s'.errs }.emit (.memManFault (w.setWidth 4 ||| 8)))
  | .fault 0x24 [_, w] => .next ({ s with free := s'.free, errs := s'.errs }.emit (.memManFault (w.setWidth 4)))
  | .fault _ _ => .next ({ s with free := s'.free, errs := s'.errs }.emit .intRegErr)
  | _ => .next { s with free := s'.free, errs := s'.errs }.emitMicErr

/-- The last address and datum remembered (R747). -/
def State.remember (s : State) (space : ConsoleSpace) (len : ConsoleLength) (a : Word) (v : BitVec 64) : State :=
  { s with console := { s.console with lastSpace := space, lastLength := len, lastAddr := a, lastData := v } }

/-- EXAMINE (R748). -/
def consoleExamine (s : State) (q : Option ConsoleSpace) (l : Option ConsoleLength) (addr : ConsoleAddr) :
    TurnOutcome :=
  let space := s.console.spaceOf q addr
  let len := s.console.lengthOf l addr
  let a := s.console.resolve addr
  match consoleRead space len.bytes a s with
  | .ok v s' => .next ((s'.remember space len a v).emit (.examined v))
  | .error t s' => consoleError s s' t

/-- DEPOSIT (R748). -/
def consoleDeposit (s : State) (q : Option ConsoleSpace) (l : Option ConsoleLength) (addr : ConsoleAddr)
    (v : BitVec 64) : TurnOutcome :=
  let space := s.console.spaceOf q addr
  let len := s.console.lengthOf l addr
  let a := s.console.resolve addr
  match consoleWrite space len.bytes a v s with
  | .ok _ s' => .next (s'.remember space len a v)
  | .error t s' => consoleError s s' t

/-! ### Starting and stopping -/

/-- The console has stopped the processor's clock: single bus cycle or single time state mode (R752). -/
def Console.clockStopped (c : Console) : Bool := c.stepMode == .bus || c.stepMode == .state

/-- The processor registers after INITIALIZE: those R56 marks as initialized (R750; 10_state.md R130). -/
def Ipr.consoleInit (r : Ipr) (p : Config.Params) : Ipr :=
  { r with
    astlvl := 4, pme := false, sisr := 0, mapen := false
    rxDone := false, rxIe := false, txRdy := true, txIe := false
    iccs := { r.iccs with ie := false, run := false }
    accsEnb := p.fpaPresent
    sbifs := 0, sbisc := 0, sbimt := 0, sbier := 0
    rxReq := false, txReq := false, timerReq := false }

/-- INITIALIZE (R750). -/
def State.consoleInit (s : State) : State :=
  { ((s.changePsl 0x041F0000).noteChanges [.regs s.mapRegs]).sync with ipr := s.ipr.consoleInit s.cfg }

/-- The processor runs on, for the given number of steps if any; fetching starts anew at PC (R749, R752;
70_reset_and_hazards.md R1282). -/
def State.resume (s : State) (steps : Option Nat) (programIo : Bool) : State :=
  { s.sync with
    run := { halted := false, why := s.run.why, haltReq := false, stepsLeft := steps }
    console := { s.console with programIo := programIo } }

/-- Steps of a CONTINUE: one in single instruction mode (R752). -/
def Console.continueSteps (c : Console) : Option Nat := if c.stepMode = .instruction then some 1 else none

/-- CONTINUE (R749, R752); a version mismatch warns, or disables it (R760). -/
def consoleContinue (s : State) : State :=
  let t := s.resume s.console.continueSteps true
  match s.cfg.versions with
  | .matched => t
  | .warning => t.emit (.versionMismatch .warning)
  | .fatal => s.emit (.versionMismatch .fatal)

/-- START: initialize, PC, CONTINUE (R750); a fatal version mismatch disables it (R760). -/
def consoleStart (s : State) (a : Word) : State :=
  if s.cfg.versions = .fatal then s.emit (.versionMismatch .fatal) else consoleContinue (s.consoleInit.setPc a)

/-- LOAD: bytes into physical memory (R751). -/
def consoleLoad (s : State) (a : Word) (bytes : List Byte) : State :=
  let pa := unmappedPa a
  let t := storeBytes s pa bytes
  if s.memPresent pa bytes.length then t else t.emitMicErr

/-- LOAD/WCS: longwords into successive thirds of the control store (R751), as MTPR to WCSA and then to WCSD stores them (DESIGN
CHOICE, log 53). -/
def Ipr.loadWcs (r : Ipr) (blocks : Byte) (addr : BitVec 13) (longs : List Word) : Ipr :=
  longs.foldl (fun r v => r.writeWcsd blocks v) { r with wcsAddr := addr, wcsCtr := 0, wcsPin := false }

/-! ### Bus commands -/

/-- QCLEAR: the quadword written with zeros and good check bits (R757). -/
def consoleQclear (s : State) (a : Word) : State :=
  let pa := unmappedPa a / 8 * 8
  if s.memPresent pa 8 then (s.renewQuad pa).setMemValue pa 0 8 else s.emitMicErr

/-- UNJAM at the first n UNIBUS adapters (65_uba.md R982). -/
def unjamUbas (s : State) : Nat → State
  | 0 => s
  | n + 1 =>
    let s := unjamUbas s n
    match s.bus.ubas[n]? with
    | some u => s.startUba n u.unjam
    | none => s

/-- UNJAM at a MASSBUS adapter (66_mba.md R1010, R1011, R1050). DESIGN CHOICE (log 28): a transfer goes on, and so does an abort
sequence that has begun though ABORT is cleared; IE and SR stay, and the drives get no MASSBUS INIT. -/
def MbaState.unjam (m : MbaState) : MbaState := { m with pd := false, pu := false, abort := false }

/-- UNJAM (R757; 63_sbi.md R840; 64_memory_controller.md R895). -/
def State.unjam (s : State) : State :=
  let s := unjamUbas s s.bus.ubas.length
  { s with bus := { s.bus with mbas := s.bus.mbas.map MbaState.unjam, intlk := false } }

/-! ### Commands -/

/-- A command that needs the processor halted in its console wait loop (R744), which its clock must drive (R752). DESIGN CHOICE (log
32): every such command needs the clock, ENABLE DX1 and REBOOT too, and where the processor runs as well the message about the clock is
the one given. -/
def waitLoop (s : State) (f : TurnOutcome) : TurnOutcome :=
  if s.console.clockStopped then .next (s.emit .clockStopped)
  else if s.run.halted then f
  else .next (s.emit .notInWaitLoop)

/-- EXAMINE: of the V bus at any time, otherwise in the wait loop (R744). -/
def consoleExamineTurn (s : State) (q : Option ConsoleSpace) (l : Option ConsoleLength) (addr : ConsoleAddr) :
    TurnOutcome :=
  if s.console.spaceOf q addr = .vBus then consoleExamine s q l addr else waitLoop s (consoleExamine s q l addr)

/-- NEXT: n steps; the clock-stepping modes are outside the model (R752). -/
def consoleNext (s : State) (n : Nat) : TurnOutcome :=
  if s.console.clockStopped then notEnabled else waitLoop s (.next (s.resume (some n) false))

/-- REBOOT: the console's software starts anew (R755); the processor and the mode switch are as they were. -/
def Console.reboot (c : Console) : Console := { Console.reset with switch := c.switch }

/-- The console's settings changed. -/
def State.setConsole (s : State) (c : Console) : TurnOutcome := .next { s with console := c }

/-- A command given in console command mode (R744 to R757). The host sets no stop on micro-match (61_cpu_devices.md R1115). DESIGN
CHOICE (logs 19 and 32): EXAMINE and DEPOSIT of the PSL leave the last address and space as they were, and HALT is accepted
with the clock stopped. -/
def consoleCommandMode (s : State) : ConsoleCmd → TurnOutcome
  | .examine q l a => consoleExamineTurn s q l a
  | .deposit q l a v => waitLoop s (consoleDeposit s q l a v)
  | .examinePsl =>
    waitLoop s (.next ({ s with console := { s.console with lastData := s.psl.setWidth 64 } }.emit
      (.examined (s.psl.setWidth 64))))
  | .depositPsl v =>
    waitLoop s (if v &&& 0x3020FF00 ≠ 0 then notEnabled
      else .next { s.changePsl v with console := { s.console with lastData := v.setWidth 64 } })
  | .halt => if s.run.halted then .next s else .next { s with run := { s.run with haltReq := true } }
  | .continue => waitLoop s (.next (consoleContinue s))
  | .init => waitLoop s (.next s.consoleInit)
  | .start a => waitLoop s (.next (consoleStart s a))
  | .load a bytes => waitLoop s (.next (consoleLoad s a bytes))
  | .loadWcs a longs => waitLoop s (.next { s with ipr := s.ipr.loadWcs s.cfg.wcsBlocks a longs })
  | .setStep m => s.setConsole { s.console with stepMode := m }
  | .next n => consoleNext s n
  | .qclear a => waitLoop s (.next (consoleQclear s a))
  | .unjam => waitLoop s (.next s.unjam)
  | .setRelocation v => s.setConsole { s.console with relocation := v }
  | .setDefault hex space len => s.setConsole { s.console with hexRadix := hex, space := space, length := len }
  | .setSomm on => if on then notEnabled else s.setConsole { s.console with somm := false }
  | .setClock c => s.setConsole { s.console with clock := c }
  | .setFill n => s.setConsole { s.console with fill := n }
  | .enableDx1 => waitLoop s (s.setConsole { s.console with dx1 := true })
  | .show => .next (s.emit (.shown s.console s.run.halted))
  | .showVersion => .next (s.emit (.shownVersion s.cfg.versions))
  | .help => .next (s.emit .help)
  | .waitDone => .next s
  | .reboot => waitLoop s (s.setConsole s.console.reboot)
  | .controlP => notEnabled
  | .setTerminalProgram => s.setConsole { s.console with programIo := true }

/-- A command; in program I/O mode only Control-P is one, which the mode switch's DISABLE position has the console ignore (R741,
R742, R773). -/
def consoleTurn (s : State) (c : ConsoleCmd) : TurnOutcome :=
  if !s.console.programIo then consoleCommandMode s c
  else if c = .controlP then s.setConsole { s.console with programIo := s.console.switch == .disable }
  else notEnabled

end Sys2Proof.Machine
end

