-- ==== Sys2Proof/Machine/Fetch.lean ====
section
/-! DEFINITION. Fetching an instruction (30_encoding.md R243; 20_memory.md R191, R229; 60_exceptions.md R1231). -/
namespace Sys2Proof.Machine
open Sys2Proof

/-- The instruction buffer, which holds eight bytes from PC on, may hold an address at each of some values of PC (10_state.md
R117). -/
def inBuffer (va : Word) (pcs : List Word) : Bool := pcs.all fun pc => decide ((va - pc).toNat < 8)

/-- The old bytes of a physical address that a fetch at a virtual address may bring, latest first: one that another agent has
stored over, only where the buffer could hold it then (70_reset_and_hazards.md R1282). -/
def staleBytes (va : Word) (pa : Nat) (l : List Overwritten) : List Byte :=
  (l.filter fun o => o.pa == pa && inBuffer va o.agents).map (·.old)

/-- The byte a fetch brings: the present one or, by free bits, one it replaced (20_memory.md R229, D12; log 9). -/
def pickStale (now : Byte) : List Byte → M Byte
  | [] => pure now
  | old :: t => do
    let b ← drawBit
    if b then pure old else pickStale now t

/-- The byte of the instruction stream at virtual address va, which stands at physical address pa: in main memory, or in the
bootstrap ROM (20_memory.md R230). -/
def fetchPhys (va : Word) (pa : Nat) : M Byte := do
  let s ← get
  if pa < ioBase then
    let b ← cpuLoadByte pa
    if s.stale.isEmpty then pure b else pickStale b (staleBytes va pa s.stale)
  else
    match s.responder pa with
    | some (.memCtl _ c _, off) =>
      match s.romLong c (off / 4 * 4) with
      | some w => pure (byteOf w (off % 4))
      | none => raise (.refuse .ioSpaceReference)
    | _ => raise (.refuse .ioSpaceReference)

/-- A byte of the instruction stream through the present map: a read in the current mode (20_memory.md R191). io: its page table
may be read in I/O space. -/
def fetchMapped (io : Bool) (va : Word) : M Byte := do
  let s ← get
  let pa ← translate io va false s.cur
  fetchPhys va pa

/-- The bytes fetched at an address through a map since changed, latest first. -/
def prefetchedBytes (va : Word) (l : List Host.Cell) : List Byte := (l.filter fun c => c.1 == va.toNat).map (·.2)

/-- One of the bytes that were fetched at an address through a map since changed, or none of them, by free bits. -/
def pickPrefetched : List Byte → M (Option Byte)
  | [] => pure none
  | old :: t => do
    let b ← drawBit
    if b then pure (some old) else pickPrefetched t

/-- A byte of the instruction stream: one that was fetched through a map since changed may still be used
(70_reset_and_hazards.md R1284; log 9). -/
def fetchByte (io : Bool) (va : Word) : M Byte := do
  let s ← get
  let old ← pickPrefetched (prefetchedBytes va s.prefetched)
  match old with
  | some b => pure b
  | none => fetchMapped io va

/-- The first n bytes at an address that the instruction buffer can fetch, up to the first that faults. -/
def prefetchFrom (va : Word) : Nat → M (List Host.Cell)
  | 0 => pure []
  | n + 1 => do
    let b ← tryCatch (some <$> fetchByte false va) fun _ => pure none
    match b with
    | none => pure []
    | some b => do
      let t ← prefetchFrom (va + 1) n
      pure ((va.toNat, b) :: t)

/-- The instruction buffer holds 8 bytes from PC on when the map is changed (10_state.md R117; 70_reset_and_hazards.md
R1284). -/
def keepPrefetched : M Unit := do
  let pc ← getReg rPC
  let l ← prefetchFrom pc 8
  modify fun s => { s with prefetched := l ++ s.prefetched }

/-- A fault on fetching the bytes after bs comes after those that evaluating the operands already fetched raises
(60_exceptions.md R1231). -/
def fetchFailed {α : Type} (bs : List Byte) (t : Trap) : M α := do
  match bs with
  | [] => raise t
  | op :: rest => do
    advancePc 1
    touchOperands op (decodePrefixOperands (opRow op).sig rest)
    raise t

/-- The instruction whose first bytes are bs, the later ones fetched as the decoder asks for them; none if the decoder
finds no instruction, which no bytes give. -/
def fetchMore : Nat → List Byte → M (Option Instr)
  | fuel, bs =>
    match decode bs with
    | .ok (i, _) => pure (some i)
    | .error .malformed => pure none
    | .error .truncated =>
      match fuel with
      | 0 => pure none
      | fuel + 1 => do
        let pc ← getReg rPC
        let b ← tryCatch (fetchByte true (pc + BitVec.ofNat 32 bs.length)) (fetchFailed bs)
        fetchMore fuel (bs ++ [b])

/-- The instruction at PC; PC stays at its opcode. -/
def fetchInstr : M (Option Instr) := fetchMore maxInstrBytes []

end Sys2Proof.Machine
end

