-- ==== Sys2Proof/Machine/Interrupts.lean ====
section
/-! DEFINITION. Interrupt requests and their arbitration (60_exceptions.md R1171 to R1176; 10_state.md R118). -/
namespace Sys2Proof.Machine
open Sys2Proof

/-- Who requests an interrupt (R1171). -/
inductive IntSource where
  | software (n : Nat)
  | consoleReceive
  | consoleTransmit
  /-- A NEXUS by its TR number. -/
  | nexus (tr : Nat)
  | timer
  /-- An SBI, memory or processor error. -/
  | busError
  | powerFail
  deriving DecidableEq, Repr

/-- The SCB offset of a source requesting at a level (R1160). The spec gives the errors no vector (R1171): theirs is some
longword of the SCB, by the free value u (log 51). -/
def IntSource.vector (level : Nat) (u : BitVec 64) : IntSource → Nat
  | .software n => 0x80 + 4 * n
  | .consoleReceive => 0xF8
  | .consoleTransmit => 0xFC
  | .nexus tr => 0x100 + 0x40 * (level - 0x14) + 4 * tr
  | .timer => 0xC0
  | .busError => (u.setWidth 7).toNat * 4
  | .powerFail => 0x0C

/-- The NEXUS of a TR number asserts SBI request level br, 4 to 7 (63_sbi.md R835). -/
def State.nexusRequests (s : State) (br tr : Nat) : Bool :=
  match s.nexus tr with
  | some (.ubaReg _ c u) => u.requests c br
  | some (.mba _ c m) => m.requests c br
  | _ => false

/-- The lowest TR number that requests at SBI level br, TR 0 to 15 (R1172, D28). -/
def State.firstNexus (s : State) (br : Nat) : Option Nat := (List.range 16).find? (s.nexusRequests br)

/-- An error requests at a level, 18 to 1D (R1171; 10_state.md R118 (5)). -/
def Errors.requestsAt (e : Errors) (level : Nat) : Bool := decide (0x18 ≤ level) && e.requests.getLsbD (level - 0x18)

/-- The source served first at a level, ascending SCB offset (R1172, D28); at level 18 the interval timer before an error
(DESIGN CHOICE, log 51). -/
def State.requestAt (s : State) (level : Nat) : Option IntSource :=
  if level = 0x1E then (if s.ipr.powerReq then some .powerFail else none)
  else if level = 0x18 ∧ s.ipr.timerReq then some .timer
  else if s.errs.requestsAt level then some .busError
  else if 0x14 ≤ level ∧ level ≤ 0x17 then
    if level = 0x14 ∧ s.ipr.rxReq then some .consoleReceive
    else if level = 0x14 ∧ s.ipr.txReq then some .consoleTransmit
    else (s.firstNexus (level - 0x10)).map .nexus
  else if 1 ≤ level ∧ level ≤ 0xF ∧ s.ipr.sisr.getLsbD level then some (.software level)
  else none

/-- The highest request at a level of at most n and above ipl (R1172). -/
def State.highestRequest (s : State) (ipl : Nat) : Nat → Option (Nat × IntSource)
  | 0 => none
  | n + 1 =>
    if n + 1 ≤ ipl then none
    else
      match s.requestAt (n + 1) with
      | some r => some (n + 1, r)
      | none => s.highestRequest ipl n

/-- The interrupt to take now, if any (R1172). -/
def State.pendingInterrupt (s : State) : Option (Nat × IntSource) := s.highestRequest s.ipl.toNat 0x1F

/-- A latched request cleared as its interrupt at a level is taken; a NEXUS keeps its line (R1176). What clears an error's
request is not stated: it is cleared too (DESIGN CHOICE, log 51). -/
def State.acknowledge (s : State) (level : Nat) : IntSource → State
  | .software n => { s with ipr := { s.ipr with sisr := setBit s.ipr.sisr n false } }
  | .consoleReceive => { s with ipr := { s.ipr with rxReq := false } }
  | .consoleTransmit => { s with ipr := { s.ipr with txReq := false } }
  | .nexus _ => s
  | .timer => { s with ipr := { s.ipr with timerReq := false } }
  | .busError =>
    { s with free := s.free + 1, errs := { s.errs with requests := setBit s.errs.requests (level - 0x18) false } }
  | .powerFail => { s with ipr := { s.ipr with powerReq := false } }

/-- The interrupt taken (R1232 step 2). -/
def takeInterrupt (s : State) (level : Nat) (src : IntSource) : Host.Outcome State Fault Refusal :=
  initiate ⟨src.vector level (Config.freeValue s.free), [], s.pc, s.psl, some (BitVec.ofNat 5 level), none⟩
    (s.acknowledge level src)

/-- The trace fault (R1216, R1232 step 3). -/
def takeTrace (s : State) : Host.Outcome State Fault Refusal :=
  initiate (exceptionEvent 0x28 [] s.clearTp.pc s.clearTp.psl) s.clearTp

/-- T recorded in TP as an instruction starts (R1216, R1232 step 4). -/
def State.startTrace (s : State) : State := if s.pslBit pslT then { s with psl := setBit s.psl pslTP true } else s

/-- A console halt between instructions; INT PENDING tells of an interrupt that waits (62_console.md R749), at the halt that
ends a single step too (DESIGN CHOICE, log 52). -/
def State.consoleHalt (s : State) : State :=
  (if s.pendingInterrupt.isSome then s.emit .intPending else s).halt .console

/-- A halt is due: the console asks, or the single steps are done (62_console.md R749, R752). -/
def State.haltDue (s : State) : Bool := s.run.haltReq || s.run.stepsLeft == some 0

/-- One of the single steps used up. -/
def State.countStep (s : State) : State :=
  { s with run := { s.run with stepsLeft := s.run.stepsLeft.map (· - 1) } }

end Sys2Proof.Machine
end

