-- ==== Sys2Proof/Machine/Agents.lean ====
section
/-! DEFINITION. The turns of the agents other than the CPU: clocks, console, UNIBUS and MASSBUS (00_scope.md R9). -/
namespace Sys2Proof.Machine
open Sys2Proof

/-- The processor runs and the console passes characters (62_console.md R741 (1)). -/
def State.programIoRunning (s : State) : Bool := !s.run.halted && s.console.programIo

/-- RXDB loaded with a character of a unit; the request follows IE and DONE (61_cpu_devices.md R1090). -/
def Ipr.receive (r : Ipr) (unit : BitVec 4) (c : Byte) : Ipr :=
  { r with
    rxdb := c.setWidth 32 ||| (unit.setWidth 32 <<< 8)
    rxReq := r.rxReq || (r.rxIe && !r.rxDone)
    rxDone := true }

/-- RDY set; the request follows IE and RDY (R1091). -/
def Ipr.transmitDone (r : Ipr) : Ipr := { r with txReq := r.txReq || (r.txIe && !r.txRdy), txRdy := true }

/-- The interval clock's tick, only while RUN is set (R1085). -/
def intervalTick (s : State) : TurnOutcome :=
  if s.ipr.iccs.run then .next { s with ipr := s.ipr.count } else notEnabled

/-- The time-of-year clock's tick (R1080). -/
def todrTick (s : State) : TurnOutcome :=
  if s.cfg.todrPresent then .next { s with ipr := { s.ipr with todr := s.ipr.todr + 1 } } else notEnabled

/-- The console delivers a character, only when DONE is 0 (62_console.md R743, D25). -/
def deliverTurn (s : State) (unit : BitVec 4) (c : Byte) : TurnOutcome :=
  if s.programIoRunning ∧ !s.ipr.rxDone then .next { s with ipr := s.ipr.receive unit c } else notEnabled

/-- The console takes the datum of TXDB (R743). -/
def acceptTurn (s : State) : TurnOutcome :=
  if s.programIoRunning ∧ !s.ipr.txRdy then
    .next ({ s with ipr := s.ipr.transmitDone }.emit (.transmitted (s.ipr.txdb.setWidth 12)))
  else notEnabled

/-- An error's interrupt request is injected (60_exceptions.md R1171). -/
def busErrorTurn (s : State) (level : Nat) : TurnOutcome :=
  if 0x18 ≤ level ∧ level ≤ 0x1D then
    .next { s with errs := { s.errs with requests := setBit s.errs.requests (level - 0x18) true } }
  else notEnabled

/-- One bit, or two, of a quadword of the array go wrong (64_memory_controller.md R868). -/
def memErrorTurn (s : State) (pa : Nat) (double : Bool) : TurnOutcome :=
  match s.cell pa with
  | none => notEnabled
  | some c => .next (s.addError c double)

/-- AC LO of memory controller k changes (64_memory_controller.md R873). -/
def memPowerTurn (s : State) (k : Nat) (up : Bool) : TurnOutcome :=
  match s.cfg.memctls[k]?, s.bus.memctls[k]? with
  | some c, some m => .next { s with bus := { s.bus with memctls := s.bus.memctls.set k (m.acLo c up) } }
  | _, _ => notEnabled

/-- AC LO of UNIBUS adapter n changes (65_uba.md R940). -/
def ubaPowerTurn (s : State) (n : Nat) (up : Bool) : TurnOutcome :=
  if n < s.bus.ubas.length then .next (s.onUba n (UbaState.acLo up)) else notEnabled

/-- AC LO of MASSBUS adapter n changes (66_mba.md R1010). -/
def mbaPowerTurn (s : State) (n : Nat) (up : Bool) : TurnOutcome :=
  match s.bus.mbas[n]? with
  | some m => .next (s.setMba n (m.acLo up))
  | none => notEnabled

/-- The mode switch turned: entering REMOTE without the remote support software is told (62_console.md R742, R773). -/
def modeSwitchTurn (s : State) (position : ModeSwitch) : TurnOutcome :=
  let t := { s with console := { s.console with switch := position } }
  .next (if position = .remote ∧ s.console.switch ≠ .remote ∧ !s.cfg.remoteSupport then t.emit .remoteNotSupported else t)

/-- A memory controller as power comes back while the battery kept it (64_memory_controller.md R873, R875): a warm start. -/
def MemCtlState.warmStart (m : MemCtlState) : MemCtlState :=
  { m with power := 1, initStatus := 1, diag := 0 }

/-- Power comes back after a failure that the battery bridged: a fresh bootstrap with memory, and the time-of-year clock,
preserved (70_reset_and_hazards.md R1262, R1270). The console's mode switch, what has left the machine, the free values and
the agents' turns are as before. -/
def State.restart (s : State) : State :=
  let r := State.resetOf s.cfg
  { r with
    mem := s.mem
    ipr := { r.ipr with todr := s.ipr.todr }
    bus := { r.bus with memctls := s.bus.memctls.map MemCtlState.warmStart }
    errs := { r.errs with memory := s.errs.memory }
    console := { r.console with switch := s.console.switch }
    outputs := r.outputs ++ s.outputs, free := s.free, agenda := s.agenda }

/-- A turn of an agent. The CPU's own turn is the step's (60_exceptions.md R1232). -/
def agentStep (s : State) : Turn → Host.Outcome State Fault Refusal
  | .cpu => .next s
  | .intervalTick => intervalTick s
  | .todrTick => todrTick s
  | .console c => consoleTurn s c
  | .deliver unit c => deliverTurn s unit c
  | .accept => acceptTurn s
  | .unibus n e =>
    match s.cfg.ubas[n]?, s.bus.ubas[n]? with
    | some c, some u => unibusTurn s n c u e
    | _, _ => notEnabled
  | .massbus n e =>
    match s.cfg.mbas[n]?, s.bus.mbas[n]? with
    | some c, some m => massbusTurn s n c m e
    | _, _ => notEnabled
  | .powerFail => .next { s with ipr := { s.ipr with powerReq := true } }
  | .busError level => busErrorTurn s level
  | .memError pa double => memErrorTurn s pa double
  | .memPower k up => memPowerTurn s k up
  | .restart => .next s.restart
  | .ubaPower n up => ubaPowerTurn s n up
  | .mbaPower n up => mbaPowerTurn s n up
  | .modeSwitch position => modeSwitchTurn s position

end Sys2Proof.Machine
end

