-- ==== Sys2Proof/Machine/Flags.lean ====
section
/-! DEFINITION. The condition codes and the arithmetic that computes them (10_state.md R46; 41_integer.md R371, R372). -/
namespace Sys2Proof.Machine
open Sys2Proof

/-- The four condition codes. -/
structure CC where
  n : Bool
  z : Bool
  v : Bool
  c : Bool
  deriving DecidableEq, Repr

/-- The condition codes of a state. -/
def State.cc (s : State) : CC := ⟨s.pslBit pslN, s.pslBit pslZ, s.pslBit pslV, s.pslBit pslC⟩

/-- PSL bits 3:0 as a field. -/
def CC.bits (f : CC) : BitVec 4 := BitVec.ofBool f.n ++ BitVec.ofBool f.z ++ BitVec.ofBool f.v ++ BitVec.ofBool f.c

/-- The condition codes replaced. -/
def State.setCC (s : State) (f : CC) : State := { s with psl := setField s.psl 0 f.bits }

/-- The condition codes, in a computation. -/
def getCC : M CC := fun s => .ok s.cc s

/-- The condition codes replaced, in a computation. -/
def putCC (f : CC) : M Unit := modify fun s => s.setCC f

/-- The condition codes left by the four draws of an UNPREDICTABLE setting (44_float.md R602). -/
def drawCC : M CC := do
  let b ← draw 4
  pure ⟨b.getLsbD 3, b.getLsbD 2, b.getLsbD 1, b.getLsbD 0⟩

/-- NZ of a stored result, with V and C given (R371). -/
def ccOf {w : Nat} (r : BitVec w) (v c : Bool) : CC := ⟨r.msb, r == 0, v, c⟩

/-- A result with its carry or borrow and its overflow (R371). -/
structure Arith (w : Nat) where
  r : BitVec w
  c : Bool
  v : Bool
  deriving DecidableEq, Repr

/-- 1 when b holds. -/
def carryIn (b : Bool) : Nat := if b then 1 else 0

/-- An integer lies outside the w-bit signed range (R371). -/
def outOfRange (w : Nat) (x : Int) : Bool := decide (x < -(2 ^ (w - 1) : Int)) || decide ((2 ^ (w - 1) : Int) ≤ x)

/-- Add(a, b, cin) (R371). -/
def addWith {w : Nat} (a b : BitVec w) (cin : Bool) : Arith w :=
  let s := a.toNat + b.toNat + carryIn cin
  ⟨BitVec.ofNat w s, decide (2 ^ w ≤ s), outOfRange w (a.toInt + b.toInt + carryIn cin)⟩

/-- Sub(a, b, bin): a less b less bin (R371). -/
def subWith {w : Nat} (a b : BitVec w) (bin : Bool) : Arith w :=
  ⟨a - b - BitVec.ofNat w (carryIn bin), decide (a.toNat < b.toNat + carryIn bin),
    outOfRange w (a.toInt - b.toInt - carryIn bin)⟩

/-- The arithmetic trap codes (60_exceptions.md R1219). -/
abbrev trapIntOverflow : Word := 1
abbrev trapIntDivZero : Word := 2
abbrev trapFloatOverflow : Word := 3
abbrev trapDivZero : Word := 4
abbrev trapFloatUnderflow : Word := 5
abbrev trapDecOverflow : Word := 6
abbrev trapSubscript : Word := 7

/-- The condition codes set, and the integer overflow trap when V is set and IV enables it (R372). -/
def finishInt (f : CC) : M Completion := do
  putCC f
  let p ← getPsl
  pure (if f.v && p.getLsbD pslIV then .trap trapIntOverflow else .done)

/-- The condition codes set; no trap. -/
def finish (f : CC) : M Completion := do
  putCC f
  pure .done

end Sys2Proof.Machine
end

