-- ==== Sys2Proof/Machine/Control.lean ====
section
/-! DEFINITION. Branches, loops, cases, subroutines, calls and returns (42_control.md). -/
namespace Sys2Proof.Machine
open Sys2Proof

/-- PC loaded with a target when a branch is taken (R470). -/
def branchIf (taken : Bool) (target : Word) : M Unit := if taken then jumpTo target else pure ()

/-- displ.bb: the branch is taken when the condition codes satisfy p (R471). -/
def branchOn (p : CC → Bool) (displ : BitVec 8) : M Completion := do
  let target ← branchTargetB displ
  let f ← getCC
  branchIf (p f) target
  pure .done

/-! ### Branches and jumps -/

/-- BRB (R472). -/
def execBrb (displ : BitVec 8) (s : State) : Host.Outcome State Fault Refusal :=
  runInstr s (branchOn (fun _ => true) displ)

/-- BRW (R473). -/
def execBrw (displ : BitVec 16) (s : State) : Host.Outcome State Fault Refusal :=
  runInstr s do
    let target ← branchTargetW displ
    jumpTo target
    pure .done

/-- JMP (R474). -/
def execJmp (dst : Spec) (s : State) : Host.Outcome State Fault Refusal :=
  runInstr s do
    let target ← addressOp .b false dst
    jumpTo target
    pure .done

/-- BNEQ (R475). -/
def execBneq (displ : BitVec 8) (s : State) : Host.Outcome State Fault Refusal :=
  runInstr s (branchOn (fun f => !f.z) displ)

/-- BEQL (R476). -/
def execBeql (displ : BitVec 8) (s : State) : Host.Outcome State Fault Refusal :=
  runInstr s (branchOn (fun f => f.z) displ)

/-- BGTR (R477). -/
def execBgtr (displ : BitVec 8) (s : State) : Host.Outcome State Fault Refusal :=
  runInstr s (branchOn (fun f => !(f.n || f.z)) displ)

/-- BLEQ (R478). -/
def execBleq (displ : BitVec 8) (s : State) : Host.Outcome State Fault Refusal :=
  runInstr s (branchOn (fun f => f.n || f.z) displ)

/-- BGEQ (R479). -/
def execBgeq (displ : BitVec 8) (s : State) : Host.Outcome State Fault Refusal :=
  runInstr s (branchOn (fun f => !f.n) displ)

/-- BLSS (R480). -/
def execBlss (displ : BitVec 8) (s : State) : Host.Outcome State Fault Refusal :=
  runInstr s (branchOn (fun f => f.n) displ)

/-- BGTRU (R481). -/
def execBgtru (displ : BitVec 8) (s : State) : Host.Outcome State Fault Refusal :=
  runInstr s (branchOn (fun f => !(f.c || f.z)) displ)

/-- BLEQU (R482). -/
def execBlequ (displ : BitVec 8) (s : State) : Host.Outcome State Fault Refusal :=
  runInstr s (branchOn (fun f => f.c || f.z) displ)

/-- BVC (R483). -/
def execBvc (displ : BitVec 8) (s : State) : Host.Outcome State Fault Refusal :=
  runInstr s (branchOn (fun f => !f.v) displ)

/-- BVS (R484). -/
def execBvs (displ : BitVec 8) (s : State) : Host.Outcome State Fault Refusal :=
  runInstr s (branchOn (fun f => f.v) displ)

/-- BCC (R485). -/
def execBcc (displ : BitVec 8) (s : State) : Host.Outcome State Fault Refusal :=
  runInstr s (branchOn (fun f => !f.c) displ)

/-- BCS (R486). -/
def execBcs (displ : BitVec 8) (s : State) : Host.Outcome State Fault Refusal :=
  runInstr s (branchOn (fun f => f.c) displ)

/-! ### Subroutines -/

/-- PC pushed, then loaded with a target (R487). -/
def callTo (target : Word) : M Completion := do
  let pc ← getReg rPC
  push pc
  jumpTo target
  pure .done

/-- BSBB (R487). -/
def execBsbb (displ : BitVec 8) (s : State) : Host.Outcome State Fault Refusal :=
  runInstr s do
    let target ← branchTargetB displ
    callTo target

/-- BSBW (R488). -/
def execBsbw (displ : BitVec 16) (s : State) : Host.Outcome State Fault Refusal :=
  runInstr s do
    let target ← branchTargetW displ
    callTo target

/-- JSB (R489). -/
def execJsb (dst : Spec) (s : State) : Host.Outcome State Fault Refusal :=
  runInstr s do
    let target ← addressOp .b false dst
    callTo target

/-- RSB (R490). -/
def execRsb (s : State) : Host.Outcome State Fault Refusal :=
  runInstr s do
    let target ← pop
    jumpTo target
    pure .done

/-! ### Low-bit branches and loops -/

/-- src.rl, displ.bb: the branch is taken when bit 0 of the source is want. -/
def branchLow (want : Bool) (src : Spec) (displ : BitVec 8) : M Completion := do
  let a ← readOp 32 src
  let target ← branchTargetB displ
  branchIf (a.getLsbD 0 == want) target
  pure .done

/-- BLBS (R491). -/
def execBlbs (src : Spec) (displ : BitVec 8) (s : State) : Host.Outcome State Fault Refusal :=
  runInstr s (branchLow true src displ)

/-- BLBC (R492). -/
def execBlbc (src : Spec) (displ : BitVec 8) (s : State) : Host.Outcome State Fault Refusal :=
  runInstr s (branchLow false src displ)

/-- The end of a loop instruction: the new index stored, the branch decided, then the condition codes with C kept, and
the overflow trap (R493). -/
def endLoop {w : Nat} (l : Loc) (x : Arith w) (taken : Bool) (target : Word) : M Completion := do
  storeLoc false false l x.r
  branchIf taken target
  let old ← getCC
  finishInt (ccOf x.r x.v old.c)

/-- limit.r, add.r, index.m, displ.bw (R493). -/
def addCompareBranch (w : Nat) (limit add idx : Spec) (displ : BitVec 16) : M Completion := do
  let lim ← readInt w false limit
  let a ← readInt w false add
  let (l, i) ← modifyInMemory w (intType w) idx
  let target ← branchTargetW displ
  let x := addWith i a false
  endLoop l x (if a.msb then lim.sle x.r else x.r.sle lim) target

/-- limit.rl, index.ml, displ.bb: one added, the branch taken when p holds of the new index and the limit (R496). -/
def addOneBranch (p : Word → Word → Bool) (limit idx : Spec) (displ : BitVec 8) : M Completion := do
  let lim ← readInt 32 false limit
  let (l, i) ← modifyInMemory 32 .l idx
  let target ← branchTargetB displ
  let x := addWith i 1 false
  endLoop l x (p x.r lim) target

/-- index.ml, displ.bb: one subtracted, the branch taken when p holds of the new index (R498). -/
def subOneBranch (p : Word → Bool) (idx : Spec) (displ : BitVec 8) : M Completion := do
  let (l, i) ← modifyInMemory 32 .l idx
  let target ← branchTargetB displ
  let x := subWith i 1 false
  endLoop l x (p x.r) target

/-- ACBB (R493). -/
def execAcbb (limit : Spec) (add : Spec) (idx : Spec) (displ : BitVec 16) (s : State) : Host.Outcome State Fault Refusal :=
  runInstr s (addCompareBranch 8 limit add idx displ)

/-- ACBW (R494). -/
def execAcbw (limit : Spec) (add : Spec) (idx : Spec) (displ : BitVec 16) (s : State) : Host.Outcome State Fault Refusal :=
  runInstr s (addCompareBranch 16 limit add idx displ)

/-- ACBL (R495). -/
def execAcbl (limit : Spec) (add : Spec) (idx : Spec) (displ : BitVec 16) (s : State) : Host.Outcome State Fault Refusal :=
  runInstr s (addCompareBranch 32 limit add idx displ)

/-- AOBLSS (R496). -/
def execAoblss (limit : Spec) (idx : Spec) (displ : BitVec 8) (s : State) : Host.Outcome State Fault Refusal :=
  runInstr s (addOneBranch (fun r lim => r.slt lim) limit idx displ)

/-- AOBLEQ (R497). -/
def execAobleq (limit : Spec) (idx : Spec) (displ : BitVec 8) (s : State) : Host.Outcome State Fault Refusal :=
  runInstr s (addOneBranch (fun r lim => r.sle lim) limit idx displ)

/-- SOBGEQ (R498). -/
def execSobgeq (idx : Spec) (displ : BitVec 8) (s : State) : Host.Outcome State Fault Refusal :=
  runInstr s (subOneBranch (fun r => !r.msb) idx displ)

/-- SOBGTR (R499). -/
def execSobgtr (idx : Spec) (displ : BitVec 8) (s : State) : Host.Outcome State Fault Refusal :=
  runInstr s (subOneBranch (fun r => !r.msb && r != 0) idx displ)

/-! ### Case -/

/-- A word of the instruction stream (20_memory.md R191). -/
def fetchWord (va : Word) : M (BitVec 16) := do
  let lo ← fetchByte true va
  let hi ← fetchByte true (va + 1)
  pure (hi ++ lo)

/-- selector.r, base.r, limit.r and the table that follows at the updated PC (R501). -/
def caseOf (w : Nat) (selector base limit : Spec) : M Completion := do
  let sel ← readOp w selector
  let b ← readOp w base
  let lim ← readOp w limit
  let t ← getReg rPC
  let tmp := sel - b
  if tmp.ule lim then do
    let d ← fetchWord (t + BitVec.ofNat 32 (2 * tmp.toNat))
    jumpTo (t + d.signExtend 32)
  else putReg rPC (t + BitVec.ofNat 32 (2 * (lim.toNat + 1)))
  finish ⟨tmp.slt lim, tmp == lim, false, tmp.ult lim⟩

/-- CASEB (R501). -/
def execCaseb (selector : Spec) (base : Spec) (limit : Spec) (s : State) : Host.Outcome State Fault Refusal :=
  runInstr s (caseOf 8 selector base limit)

/-- CASEW (R502). -/
def execCasew (selector : Spec) (base : Spec) (limit : Spec) (s : State) : Host.Outcome State Fault Refusal :=
  runInstr s (caseOf 16 selector base limit)

/-- CASEL (R503). -/
def execCasel (selector : Spec) (base : Spec) (limit : Spec) (s : State) : Host.Outcome State Fault Refusal :=
  runInstr s (caseOf 32 selector base limit)

/-! ### Procedure call and return -/

/-- The registers of a mask pushed, in the order of a list of register numbers (R505, 43_field_queue_misc.md R561). -/
def pushRegs (mask : BitVec 16) : List Reg → M Unit
  | [] => pure ()
  | n :: t => do
    if mask.getLsbD n.val then
      let v ← getReg n
      push v
    else pure ()
    pushRegs mask t

/-- The number of registers of a mask among those of a list. -/
def maskCount (mask : BitVec 16) (order : List Reg) : Nat := (order.filter fun n => mask.getLsbD n.val).length

/-- The registers of a mask popped, in the order of a list of register numbers (R507, 43_field_queue_misc.md R562). -/
def popRegs (mask : BitVec 16) : List Reg → M Unit
  | [] => pure ()
  | n :: t => do
    if mask.getLsbD n.val then
      let v ← pop
      putReg n v
    else pure ()
    popRegs mask t

/-- R11 to R0. -/
def frameRegs : List Reg := [11, 10, 9, 8, 7, 6, 5, 4, 3, 2, 1, 0]

/-- The mask and PSW longword of a call frame (R504). -/
def frameWord (spa : BitVec 2) (calls : Bool) (mask : BitVec 16) (psl : Word) : Word :=
  spa ++ BitVec.ofBool calls ++ (0 : BitVec 1) ++ mask.setWidth 12 ++ (psl.setWidth 16 &&& 0xFFE0)

/-- The PSL in the procedure: condition codes and FU cleared, IV and DV from the entry mask (R505). -/
def procedurePsl (psl : Word) (mask : BitVec 16) : Word :=
  setBit (setBit (setBit (setField psl 0 (0 : BitVec 4)) pslFU false) pslIV (mask.getLsbD 14)) pslDV (mask.getLsbD 15)

/-- The entry mask at a procedure's address, whose bits 13:12 must be 0 (R504, R505). -/
def entryMask (dst : Word) : M (BitVec 16) := do
  let m ← memReadN dst 2
  let mask := BitVec.ofNat 16 m
  if mask.extractLsb' 12 2 = (0 : BitVec 2) then pure mask else reservedOperand

/-- The call frame checked, then built, and the procedure entered (R505, R506; the order is log 31's). -/
def enterProcedure (calls : Bool) (mask : BitVec 16) (ap dst : Word) : M Completion := do
  let sp ← getReg rSP
  let psl ← getPsl
  putReg rSP (sp &&& 0xFFFFFFFC)
  checkPushes (maskCount mask frameRegs + 5) (sp &&& 0xFFFFFFFC)
  pushRegs mask frameRegs
  let pc ← getReg rPC
  push pc
  let fp ← getReg rFP
  push fp
  let oldAp ← getReg rAP
  push oldAp
  push (frameWord (sp.setWidth 2) calls mask psl)
  push 0
  let newFp ← getReg rSP
  putReg rFP newFp
  putReg rAP ap
  putPsl (procedurePsl psl mask)
  jumpTo (dst + 2)
  pure .done

/-- CALLG (R505). -/
def execCallg (arglist : Spec) (dst : Spec) (s : State) : Host.Outcome State Fault Refusal :=
  runInstr s do
    let ap ← addressOp .b false arglist
    let d ← addressOp .b false dst
    let mask ← entryMask d
    enterProcedure false mask ap d

/-- A longword pushed for m to go on; an event that ends m leaves memory as it was before the push (R506: a reserved entry
mask leaves nothing changed; 70_reset_and_hazards.md R1285; log 31). -/
def pushUndone {α : Type} (v : Word) (m : M α) : M α := do
  let s ← get
  let pas ← translateRange false (s.sp - 4) 4 true s.cur
  if touchesIo pas then raise (.refuse .ioSpaceReference)
  else do
    needMemory pas
    let t ← get
    let old := joinBytes (fun i => (t.memByte (pas.getD i 0)).getD 0) pas.length
    programStore pas v.toNat
    putReg rSP (s.sp - 4)
    tryCatch m fun t => do
      cpuStore pas old
      raise t

/-- CALLS (R506): the count is pushed before the entry mask is read. -/
def execCalls (numarg : Spec) (dst : Spec) (s : State) : Host.Outcome State Fault Refusal :=
  runInstr s do
    let n ← readInt 32 false numarg
    let d ← addressOp .b false dst
    pushUndone n do
      let ap ← getReg rSP
      let mask ← entryMask d
      enterProcedure true mask ap d

/-- RET (R507). -/
def execRet (s : State) : Host.Outcome State Fault Refusal :=
  runInstr s do
    let fp ← getReg rFP
    putReg rSP (fp + 4)
    let tmp ← pop
    if tmp.extractLsb' 8 8 ≠ (0 : BitVec 8) then reservedOperand else pure ()
    let ap ← pop
    putReg rAP ap
    let oldFp ← pop
    putReg rFP oldFp
    let pc ← pop
    popRegs (tmp.extractLsb' 16 12 |>.setWidth 16) frameRegs.reverse
    let sp ← getReg rSP
    putReg rSP (sp + (tmp.extractLsb' 30 2).setWidth 32)
    let psl ← getPsl
    putPsl (setField psl 0 (tmp.setWidth 16))
    if tmp.getLsbD 29 then
      let n ← pop
      let sp ← getReg rSP
      putReg rSP (sp + 4 * (n.setWidth 8).setWidth 32)
    else pure ()
    jumpTo pc
    pure .done

/-! ### Return from exception, breakpoint, no operation -/

/-- REI (R500). -/
def execRei (s : State) : Host.Outcome State Fault Refusal :=
  runInstr s do
    returnFromEvent
    pure .done

/-- BPT (R508). -/
def execBpt (s : State) : Host.Outcome State Fault Refusal :=
  runInstr s (raise (.fault 0x2C []))

/-- NOP (R509). -/
def execNop (s : State) : Host.Outcome State Fault Refusal :=
  runInstr s (pure .done)

end Sys2Proof.Machine
end

