-- ==== Sys2Proof/Machine/Integer.lean ====
section
/-! DEFINITION. Integer, logical, shift, address and push instructions (41_integer.md). -/
namespace Sys2Proof.Machine
open Sys2Proof

/-- A result to store, the condition codes with it, and whether the divisor was zero (R371, R372). -/
structure IntResult (w : Nat) where
  r : BitVec w
  cc : CC
  divZero : Bool := false

/-- The end of an instruction whose result is stored (R372): a divide by zero always traps, an overflow when IV is set. -/
def IntResult.finish {w : Nat} (x : IntResult w) : M Completion := do
  if x.divZero then
    putCC x.cc
    pure (.trap trapIntDivZero)
  else finishInt x.cc

/-! ### Shapes of instructions -/

/-! io is off in the instructions that may not reference I/O space (20_memory.md R230). -/

/-- src.r, dst.w: the result is computed from the source and the old condition codes. -/
def unary (v w : Nat) (f : BitVec v → CC → IntResult w) (src dst : Spec) : M Completion := do
  let a ← readOp v src
  let l ← writeOp w dst
  let old ← getCC
  let x := f a old
  storeOp l x.r
  x.finish

/-- dst.m: the result is computed from the old value. -/
def modify1 (w : Nat) (f : BitVec w → IntResult w) (dst : Spec) : M Completion := do
  let (l, b) ← modifyOp w dst
  let x := f b
  storeBack l x.r
  x.finish

/-- a.r, dst.m: f takes the first operand, the old value of the second and the old condition codes. -/
def binary2 (w : Nat) (f : BitVec w → BitVec w → CC → IntResult w) (src dst : Spec) (io : Bool := intIo w) :
    M Completion := do
  let a ← readOp w src io
  let (l, b) ← modifyOp w dst io
  let old ← getCC
  let x := f a b old
  storeBack l x.r io
  x.finish

/-- a.r, b.r, dst.w: f takes the two operands in order and the old condition codes. -/
def binary3 (w : Nat) (f : BitVec w → BitVec w → CC → IntResult w) (src1 src2 dst : Spec) (io : Bool := intIo w) :
    M Completion := do
  let a ← readOp w src1 io
  let b ← readOp w src2 io
  let l ← writeOp w dst io
  let old ← getCC
  let x := f a b old
  storeOp l x.r io
  x.finish

/-- a.r, b.r: condition codes only. -/
def compare2 (w : Nat) (f : BitVec w → BitVec w → CC → CC) (src1 src2 : Spec) : M Completion := do
  let a ← readOp w src1
  let b ← readOp w src2
  let old ← getCC
  finish (f a b old)

/-- src.r: condition codes only. -/
def test1 (w : Nat) (f : BitVec w → CC) (src : Spec) : M Completion := do
  let a ← readOp w src
  finish (f a)

/-! ### Results -/

/-- NZ of the result, V cleared, C kept. -/
def moved {w : Nat} (r : BitVec w) (old : CC) : IntResult w := { r := r, cc := ccOf r false old.c }

/-- N cleared, Z of the result, V cleared, C kept (R388). -/
def zeroExtended {w : Nat} (r : BitVec w) (old : CC) : IntResult w := { r := r, cc := ⟨false, r == 0, false, old.c⟩ }

/-- NZ of the result, V as given, C cleared. -/
def cleared {w : Nat} (r : BitVec w) (v : Bool) : IntResult w := { r := r, cc := ccOf r v false }

/-- NZ of the result, V and C of the arithmetic. -/
def Arith.result {w : Nat} (x : Arith w) : IntResult w := { r := x.r, cc := ccOf x.r x.v x.c }

/-- The negated source (R382). -/
def negated {w : Nat} (a : BitVec w) : IntResult w :=
  { r := -a, cc := ccOf (-a) (a == BitVec.intMin w) (-a != 0) }

/-- A signed conversion from v to w bits, the low bits kept (R391, R393). -/
def converted {v : Nat} (w : Nat) (a : BitVec v) : IntResult w := cleared (a.signExtend w) (outOfRange w a.toInt)

/-- The comparison of two operands (R397): N signed, C unsigned. -/
def compared {w : Nat} (a b : BitVec w) : CC := ⟨a.slt b, a == b, false, a.ult b⟩

/-- The signed product (R427). -/
def product {w : Nat} (a b : BitVec w) : IntResult w :=
  let p := b.toInt * a.toInt
  cleared (BitVec.ofInt w p) (outOfRange w p)

/-- The signed quotient of the dividend by the divisor, truncated toward zero; by zero or out of range, the dividend
(R435). -/
def quotient {w : Nat} (divisor dividend : BitVec w) : IntResult w :=
  if divisor = 0 then { cleared dividend true with divZero := true }
  else
    let q := dividend.toInt.tdiv divisor.toInt
    if outOfRange w q then cleared dividend true else cleared (BitVec.ofInt w q) false

/-- The arithmetic shift by a signed count: left for a positive one, right for a negative one (R459). -/
def shifted {w : Nat} (cnt : Byte) (a : BitVec w) : IntResult w :=
  let k := cnt.toInt
  if 0 ≤ k then
    let p := a.toInt * 2 ^ k.toNat
    cleared (BitVec.ofInt w p) (outOfRange w p)
  else cleared (a.sshiftRight (-k).toNat) false


/-! ### Move, clear, negate, complement -/

/-- MOVB (R373). -/
def execMovb (src dst : Spec) (s : State) : Host.Outcome State Fault Refusal :=
  runInstr s (unary 8 8 moved src dst)

/-- MOVW (R374). -/
def execMovw (src dst : Spec) (s : State) : Host.Outcome State Fault Refusal :=
  runInstr s (unary 16 16 moved src dst)

/-- MOVL (R375). -/
def execMovl (src dst : Spec) (s : State) : Host.Outcome State Fault Refusal :=
  runInstr s (unary 32 32 moved src dst)

/-- MOVQ (R376). -/
def execMovq (src dst : Spec) (s : State) : Host.Outcome State Fault Refusal :=
  runInstr s (unary 64 64 moved src dst)

/-- PUSHL (R377). -/
def execPushl (src : Spec) (s : State) : Host.Outcome State Fault Refusal :=
  runInstr s do
    let a ← readOp 32 src
    pushMapped a
    let old ← getCC
    finish (ccOf a false old.c)

/-- dst.w: zero stored (R378). -/
def clear (w : Nat) (dst : Spec) : M Completion := do
  let l ← writeOp w dst
  storeOp l (0 : BitVec w)
  let old ← getCC
  finish ⟨false, true, false, old.c⟩

/-- CLRB (R378). -/
def execClrb (dst : Spec) (s : State) : Host.Outcome State Fault Refusal :=
  runInstr s (clear 8 dst)

/-- CLRW (R379). -/
def execClrw (dst : Spec) (s : State) : Host.Outcome State Fault Refusal :=
  runInstr s (clear 16 dst)

/-- CLRL (R380). -/
def execClrl (dst : Spec) (s : State) : Host.Outcome State Fault Refusal :=
  runInstr s (clear 32 dst)

/-- CLRQ (R381). -/
def execClrq (dst : Spec) (s : State) : Host.Outcome State Fault Refusal :=
  runInstr s (clear 64 dst)

/-- MNEGB (R382). -/
def execMnegb (src dst : Spec) (s : State) : Host.Outcome State Fault Refusal :=
  runInstr s (unary 8 8 (fun a _ => negated a) src dst)

/-- MNEGW (R383). -/
def execMnegw (src dst : Spec) (s : State) : Host.Outcome State Fault Refusal :=
  runInstr s (unary 16 16 (fun a _ => negated a) src dst)

/-- MNEGL (R384). -/
def execMnegl (src dst : Spec) (s : State) : Host.Outcome State Fault Refusal :=
  runInstr s (unary 32 32 (fun a _ => negated a) src dst)

/-- MCOMB (R385). -/
def execMcomb (src dst : Spec) (s : State) : Host.Outcome State Fault Refusal :=
  runInstr s (unary 8 8 (fun a old => moved (~~~a) old) src dst)

/-- MCOMW (R386). -/
def execMcomw (src dst : Spec) (s : State) : Host.Outcome State Fault Refusal :=
  runInstr s (unary 16 16 (fun a old => moved (~~~a) old) src dst)

/-- MCOML (R387). -/
def execMcoml (src dst : Spec) (s : State) : Host.Outcome State Fault Refusal :=
  runInstr s (unary 32 32 (fun a old => moved (~~~a) old) src dst)

/-! ### Zero-extending moves and conversions -/

/-- MOVZBW (R388). -/
def execMovzbw (src dst : Spec) (s : State) : Host.Outcome State Fault Refusal :=
  runInstr s (unary 8 16 (fun a old => zeroExtended (a.setWidth 16) old) src dst)

/-- MOVZBL (R389). -/
def execMovzbl (src dst : Spec) (s : State) : Host.Outcome State Fault Refusal :=
  runInstr s (unary 8 32 (fun a old => zeroExtended (a.setWidth 32) old) src dst)

/-- MOVZWL (R390). -/
def execMovzwl (src dst : Spec) (s : State) : Host.Outcome State Fault Refusal :=
  runInstr s (unary 16 32 (fun a old => zeroExtended (a.setWidth 32) old) src dst)

/-- CVTBW (R391). -/
def execCvtbw (src dst : Spec) (s : State) : Host.Outcome State Fault Refusal :=
  runInstr s (unary 8 16 (fun a _ => converted 16 a) src dst)

/-- CVTBL (R392). -/
def execCvtbl (src dst : Spec) (s : State) : Host.Outcome State Fault Refusal :=
  runInstr s (unary 8 32 (fun a _ => converted 32 a) src dst)

/-- CVTWB (R393). -/
def execCvtwb (src dst : Spec) (s : State) : Host.Outcome State Fault Refusal :=
  runInstr s (unary 16 8 (fun a _ => converted 8 a) src dst)

/-- CVTWL (R394). -/
def execCvtwl (src dst : Spec) (s : State) : Host.Outcome State Fault Refusal :=
  runInstr s (unary 16 32 (fun a _ => converted 32 a) src dst)

/-- CVTLB (R395). -/
def execCvtlb (src dst : Spec) (s : State) : Host.Outcome State Fault Refusal :=
  runInstr s (unary 32 8 (fun a _ => converted 8 a) src dst)

/-- CVTLW (R396). -/
def execCvtlw (src dst : Spec) (s : State) : Host.Outcome State Fault Refusal :=
  runInstr s (unary 32 16 (fun a _ => converted 16 a) src dst)

/-! ### Compare, test, bit test -/

/-- CMPB (R397). -/
def execCmpb (src1 src2 : Spec) (s : State) : Host.Outcome State Fault Refusal :=
  runInstr s (compare2 8 (fun a b _ => compared a b) src1 src2)

/-- CMPW (R398). -/
def execCmpw (src1 src2 : Spec) (s : State) : Host.Outcome State Fault Refusal :=
  runInstr s (compare2 16 (fun a b _ => compared a b) src1 src2)

/-- CMPL (R399). -/
def execCmpl (src1 src2 : Spec) (s : State) : Host.Outcome State Fault Refusal :=
  runInstr s (compare2 32 (fun a b _ => compared a b) src1 src2)

/-- TSTB (R400). -/
def execTstb (src : Spec) (s : State) : Host.Outcome State Fault Refusal :=
  runInstr s (test1 8 (fun a => ccOf a false false) src)

/-- TSTW (R401). -/
def execTstw (src : Spec) (s : State) : Host.Outcome State Fault Refusal :=
  runInstr s (test1 16 (fun a => ccOf a false false) src)

/-- TSTL (R402). -/
def execTstl (src : Spec) (s : State) : Host.Outcome State Fault Refusal :=
  runInstr s (test1 32 (fun a => ccOf a false false) src)

/-- BITB (R403). -/
def execBitb (mask src : Spec) (s : State) : Host.Outcome State Fault Refusal :=
  runInstr s (compare2 8 (fun a b old => ccOf (b &&& a) false old.c) mask src)

/-- BITW (R404). -/
def execBitw (mask src : Spec) (s : State) : Host.Outcome State Fault Refusal :=
  runInstr s (compare2 16 (fun a b old => ccOf (b &&& a) false old.c) mask src)

/-- BITL (R405). -/
def execBitl (mask src : Spec) (s : State) : Host.Outcome State Fault Refusal :=
  runInstr s (compare2 32 (fun a b old => ccOf (b &&& a) false old.c) mask src)

/-! ### Add, subtract, increment, decrement -/

/-- INCB (R406). -/
def execIncb (sum : Spec) (s : State) : Host.Outcome State Fault Refusal :=
  runInstr s (modify1 8 (fun a => (addWith a 1 false).result) sum)

/-- INCW (R407). -/
def execIncw (sum : Spec) (s : State) : Host.Outcome State Fault Refusal :=
  runInstr s (modify1 16 (fun a => (addWith a 1 false).result) sum)

/-- INCL (R408). -/
def execIncl (sum : Spec) (s : State) : Host.Outcome State Fault Refusal :=
  runInstr s (modify1 32 (fun a => (addWith a 1 false).result) sum)

/-- DECB (R409). -/
def execDecb (dif : Spec) (s : State) : Host.Outcome State Fault Refusal :=
  runInstr s (modify1 8 (fun a => (subWith a 1 false).result) dif)

/-- DECW (R410). -/
def execDecw (dif : Spec) (s : State) : Host.Outcome State Fault Refusal :=
  runInstr s (modify1 16 (fun a => (subWith a 1 false).result) dif)

/-- DECL (R411). -/
def execDecl (dif : Spec) (s : State) : Host.Outcome State Fault Refusal :=
  runInstr s (modify1 32 (fun a => (subWith a 1 false).result) dif)

/-- ADDB2 (R412). -/
def execAddb2 (add sum : Spec) (s : State) : Host.Outcome State Fault Refusal :=
  runInstr s (binary2 8 (fun a b _ => (addWith b a false).result) add sum)

/-- ADDB3 (R413). -/
def execAddb3 (add1 add2 sum : Spec) (s : State) : Host.Outcome State Fault Refusal :=
  runInstr s (binary3 8 (fun a b _ => (addWith a b false).result) add1 add2 sum)

/-- ADDW2 (R414). -/
def execAddw2 (add sum : Spec) (s : State) : Host.Outcome State Fault Refusal :=
  runInstr s (binary2 16 (fun a b _ => (addWith b a false).result) add sum)

/-- ADDW3 (R415). -/
def execAddw3 (add1 add2 sum : Spec) (s : State) : Host.Outcome State Fault Refusal :=
  runInstr s (binary3 16 (fun a b _ => (addWith a b false).result) add1 add2 sum)

/-- ADDL2 (R416). -/
def execAddl2 (add sum : Spec) (s : State) : Host.Outcome State Fault Refusal :=
  runInstr s (binary2 32 (fun a b _ => (addWith b a false).result) add sum)

/-- ADDL3 (R417). -/
def execAddl3 (add1 add2 sum : Spec) (s : State) : Host.Outcome State Fault Refusal :=
  runInstr s (binary3 32 (fun a b _ => (addWith a b false).result) add1 add2 sum)

/-- ADWC (R418). -/
def execAdwc (add sum : Spec) (s : State) : Host.Outcome State Fault Refusal :=
  runInstr s (binary2 32 (fun a b old => (addWith b a old.c).result) add sum)

/-- SBWC (R419). -/
def execSbwc (sub dif : Spec) (s : State) : Host.Outcome State Fault Refusal :=
  runInstr s (binary2 32 (fun a b old => (subWith b a old.c).result) sub dif)

/-- ADAWI (R420): an aligned word, interlocked; in I/O space only a UNIBUS takes it (20_memory.md R232). DESIGN CHOICE (log 22): the
add operand is read from any I/O space, as a word source of the instructions that 20_memory.md R230 lists; neither of its lists names
ADAWI. -/
def execAdawi (add sum : Spec) (s : State) : Host.Outcome State Fault Refusal :=
  runInstr s do
    let a ← readOp 16 add
    let l ← locate .modify .w true sum
    let b ← match l with
      | .mem ea => if ea.getLsbD 0 then reservedOperand else do
          awaitInterlock
          loadInterlocked ea
      | _ => loadLoc 16 true true true l
    let x := (addWith b a false).result
    storeBack l x.r
    x.finish

/-- SUBB2 (R421). -/
def execSubb2 (sub dif : Spec) (s : State) : Host.Outcome State Fault Refusal :=
  runInstr s (binary2 8 (fun a b _ => (subWith b a false).result) sub dif)

/-- SUBB3 (R422). -/
def execSubb3 (sub minuend dif : Spec) (s : State) : Host.Outcome State Fault Refusal :=
  runInstr s (binary3 8 (fun a b _ => (subWith b a false).result) sub minuend dif)

/-- SUBW2 (R423). -/
def execSubw2 (sub dif : Spec) (s : State) : Host.Outcome State Fault Refusal :=
  runInstr s (binary2 16 (fun a b _ => (subWith b a false).result) sub dif)

/-- SUBW3 (R424). -/
def execSubw3 (sub minuend dif : Spec) (s : State) : Host.Outcome State Fault Refusal :=
  runInstr s (binary3 16 (fun a b _ => (subWith b a false).result) sub minuend dif)

/-- SUBL2 (R425). -/
def execSubl2 (sub dif : Spec) (s : State) : Host.Outcome State Fault Refusal :=
  runInstr s (binary2 32 (fun a b _ => (subWith b a false).result) sub dif)

/-- SUBL3 (R426). -/
def execSubl3 (sub minuend dif : Spec) (s : State) : Host.Outcome State Fault Refusal :=
  runInstr s (binary3 32 (fun a b _ => (subWith b a false).result) sub minuend dif)

/-! ### Multiply and divide -/

/-- MULB2 (R427). -/
def execMulb2 (mulr prod : Spec) (s : State) : Host.Outcome State Fault Refusal :=
  runInstr s (binary2 8 (fun a b _ => product a b) mulr prod false)

/-- MULB3 (R428). -/
def execMulb3 (mulr muld prod : Spec) (s : State) : Host.Outcome State Fault Refusal :=
  runInstr s (binary3 8 (fun a b _ => product a b) mulr muld prod false)

/-- MULW2 (R429). -/
def execMulw2 (mulr prod : Spec) (s : State) : Host.Outcome State Fault Refusal :=
  runInstr s (binary2 16 (fun a b _ => product a b) mulr prod false)

/-- MULW3 (R430). -/
def execMulw3 (mulr muld prod : Spec) (s : State) : Host.Outcome State Fault Refusal :=
  runInstr s (binary3 16 (fun a b _ => product a b) mulr muld prod false)

/-- MULL2 (R431). -/
def execMull2 (mulr prod : Spec) (s : State) : Host.Outcome State Fault Refusal :=
  runInstr s (binary2 32 (fun a b _ => product a b) mulr prod false)

/-- MULL3 (R432). -/
def execMull3 (mulr muld prod : Spec) (s : State) : Host.Outcome State Fault Refusal :=
  runInstr s (binary3 32 (fun a b _ => product a b) mulr muld prod false)

/-- EMUL (R433). DESIGN CHOICE (log 12): register operands that overlap the register pair run as the rule says, since it states no
restriction on them such as 30_encoding.md R266 speaks of. -/
def execEmul (mulr muld add prod : Spec) (s : State) : Host.Outcome State Fault Refusal :=
  runInstr s do
    let a ← readOp 32 mulr false
    let b ← readOp 32 muld false
    let c ← readOp 32 add false
    let l ← writeOp 64 prod
    let x : IntResult 64 := cleared (BitVec.ofInt 64 (a.toInt * b.toInt + c.toInt)) false
    storeOp l x.r
    x.finish

/-- EDIV's quotient and remainder (R434). -/
def extendedQuotient (divisor : Word) (dividend : BitVec 64) : IntResult 32 × Word :=
  if divisor = 0 then ({ cleared (loLong dividend) true with divZero := true }, 0)
  else
    let q := dividend.toInt.tdiv divisor.toInt
    if outOfRange 32 q then (cleared (loLong dividend) true, 0)
    else (cleared (BitVec.ofInt 32 q) false, BitVec.ofInt 32 (dividend.toInt - q * divisor.toInt))

/-- EDIV (R434): two destinations, so no operand in I/O space. DESIGN CHOICE (log 12): register operands that overlap run as the
rule says, quotient before remainder, since it states no restriction on them such as 30_encoding.md R266 speaks of. -/
def execEdiv (divr divd quo rem : Spec) (s : State) : Host.Outcome State Fault Refusal :=
  runInstr s do
    let d ← readInt 32 false divr
    let n ← readInt 64 false divd
    let lq ← locate .write .l false quo
    let lr ← locate .write .l false rem
    let (x, r) := extendedQuotient d n
    checkStore false 32 lq
    checkStore false 32 lr
    storeLoc false false lq x.r
    storeLoc false false lr r
    x.finish

/-- DIVB2 (R435). -/
def execDivb2 (divr quo : Spec) (s : State) : Host.Outcome State Fault Refusal :=
  runInstr s (binary2 8 (fun a b _ => quotient a b) divr quo false)

/-- DIVB3 (R436). -/
def execDivb3 (divr divd quo : Spec) (s : State) : Host.Outcome State Fault Refusal :=
  runInstr s (binary3 8 (fun a b _ => quotient a b) divr divd quo false)

/-- DIVW2 (R437). -/
def execDivw2 (divr quo : Spec) (s : State) : Host.Outcome State Fault Refusal :=
  runInstr s (binary2 16 (fun a b _ => quotient a b) divr quo false)

/-- DIVW3 (R438). -/
def execDivw3 (divr divd quo : Spec) (s : State) : Host.Outcome State Fault Refusal :=
  runInstr s (binary3 16 (fun a b _ => quotient a b) divr divd quo false)

/-- DIVL2 (R439). -/
def execDivl2 (divr quo : Spec) (s : State) : Host.Outcome State Fault Refusal :=
  runInstr s (binary2 32 (fun a b _ => quotient a b) divr quo false)

/-- DIVL3 (R440). -/
def execDivl3 (divr divd quo : Spec) (s : State) : Host.Outcome State Fault Refusal :=
  runInstr s (binary3 32 (fun a b _ => quotient a b) divr divd quo false)

/-! ### Logical -/

/-- BISB2 (R441). -/
def execBisb2 (mask dst : Spec) (s : State) : Host.Outcome State Fault Refusal :=
  runInstr s (binary2 8 (fun a b old => moved (b ||| a) old) mask dst)

/-- BISB3 (R442). -/
def execBisb3 (mask src dst : Spec) (s : State) : Host.Outcome State Fault Refusal :=
  runInstr s (binary3 8 (fun a b old => moved (b ||| a) old) mask src dst)

/-- BISW2 (R443). -/
def execBisw2 (mask dst : Spec) (s : State) : Host.Outcome State Fault Refusal :=
  runInstr s (binary2 16 (fun a b old => moved (b ||| a) old) mask dst)

/-- BISW3 (R444). -/
def execBisw3 (mask src dst : Spec) (s : State) : Host.Outcome State Fault Refusal :=
  runInstr s (binary3 16 (fun a b old => moved (b ||| a) old) mask src dst)

/-- BISL2 (R445). -/
def execBisl2 (mask dst : Spec) (s : State) : Host.Outcome State Fault Refusal :=
  runInstr s (binary2 32 (fun a b old => moved (b ||| a) old) mask dst)

/-- BISL3 (R446). -/
def execBisl3 (mask src dst : Spec) (s : State) : Host.Outcome State Fault Refusal :=
  runInstr s (binary3 32 (fun a b old => moved (b ||| a) old) mask src dst)

/-- BICB2 (R447). -/
def execBicb2 (mask dst : Spec) (s : State) : Host.Outcome State Fault Refusal :=
  runInstr s (binary2 8 (fun a b old => moved (b &&& ~~~a) old) mask dst)

/-- BICB3 (R448). -/
def execBicb3 (mask src dst : Spec) (s : State) : Host.Outcome State Fault Refusal :=
  runInstr s (binary3 8 (fun a b old => moved (b &&& ~~~a) old) mask src dst)

/-- BICW2 (R449). -/
def execBicw2 (mask dst : Spec) (s : State) : Host.Outcome State Fault Refusal :=
  runInstr s (binary2 16 (fun a b old => moved (b &&& ~~~a) old) mask dst)

/-- BICW3 (R450). -/
def execBicw3 (mask src dst : Spec) (s : State) : Host.Outcome State Fault Refusal :=
  runInstr s (binary3 16 (fun a b old => moved (b &&& ~~~a) old) mask src dst)

/-- BICL2 (R451). -/
def execBicl2 (mask dst : Spec) (s : State) : Host.Outcome State Fault Refusal :=
  runInstr s (binary2 32 (fun a b old => moved (b &&& ~~~a) old) mask dst)

/-- BICL3 (R452). -/
def execBicl3 (mask src dst : Spec) (s : State) : Host.Outcome State Fault Refusal :=
  runInstr s (binary3 32 (fun a b old => moved (b &&& ~~~a) old) mask src dst)

/-- XORB2 (R453). -/
def execXorb2 (mask dst : Spec) (s : State) : Host.Outcome State Fault Refusal :=
  runInstr s (binary2 8 (fun a b old => moved (b ^^^ a) old) mask dst)

/-- XORB3 (R454). -/
def execXorb3 (mask src dst : Spec) (s : State) : Host.Outcome State Fault Refusal :=
  runInstr s (binary3 8 (fun a b old => moved (b ^^^ a) old) mask src dst)

/-- XORW2 (R455). -/
def execXorw2 (mask dst : Spec) (s : State) : Host.Outcome State Fault Refusal :=
  runInstr s (binary2 16 (fun a b old => moved (b ^^^ a) old) mask dst)

/-- XORW3 (R456). -/
def execXorw3 (mask src dst : Spec) (s : State) : Host.Outcome State Fault Refusal :=
  runInstr s (binary3 16 (fun a b old => moved (b ^^^ a) old) mask src dst)

/-- XORL2 (R457). -/
def execXorl2 (mask dst : Spec) (s : State) : Host.Outcome State Fault Refusal :=
  runInstr s (binary2 32 (fun a b old => moved (b ^^^ a) old) mask dst)

/-- XORL3 (R458). -/
def execXorl3 (mask src dst : Spec) (s : State) : Host.Outcome State Fault Refusal :=
  runInstr s (binary3 32 (fun a b old => moved (b ^^^ a) old) mask src dst)

/-! ### Shift and rotate -/

/-- cnt.rb, src.r, dst.w: the arithmetic shifts. -/
def arithmeticShift (w : Nat) (cnt src dst : Spec) : M Completion := do
  let k ← readOp 8 cnt false
  let a ← readOp w src false
  let l ← writeOp w dst false
  let x := shifted k a
  storeOp l x.r false
  x.finish

/-- ASHL (R459). -/
def execAshl (cnt src dst : Spec) (s : State) : Host.Outcome State Fault Refusal :=
  runInstr s (arithmeticShift 32 cnt src dst)

/-- ASHQ (R460). -/
def execAshq (cnt src dst : Spec) (s : State) : Host.Outcome State Fault Refusal :=
  runInstr s (arithmeticShift 64 cnt src dst)

/-- ROTL (R461). -/
def execRotl (cnt src dst : Spec) (s : State) : Host.Outcome State Fault Refusal :=
  runInstr s do
    let k ← readOp 8 cnt false
    let a ← readOp 32 src false
    let l ← writeOp 32 dst false
    let old ← getCC
    let x := moved (a.rotateLeft (k.toNat % 32)) old
    storeOp l x.r false
    x.finish

/-! ### Addresses -/

/-- src.a, dst.wl: the address stored (R462). -/
def moveAddress (ty : DType) (src dst : Spec) : M Completion := do
  let a ← addressOp ty true src
  let l ← writeOp 32 dst
  let old ← getCC
  let x := moved a old
  storeOp l x.r
  x.finish

/-- src.a: the address pushed (R466). -/
def pushAddress (ty : DType) (src : Spec) : M Completion := do
  let a ← addressOp ty true src
  pushMapped a
  let old ← getCC
  finish (ccOf a false old.c)

/-- MOVAB (R462). -/
def execMovab (src dst : Spec) (s : State) : Host.Outcome State Fault Refusal :=
  runInstr s (moveAddress .b src dst)

/-- MOVAW (R463). -/
def execMovaw (src dst : Spec) (s : State) : Host.Outcome State Fault Refusal :=
  runInstr s (moveAddress .w src dst)

/-- MOVAL (R464). -/
def execMoval (src dst : Spec) (s : State) : Host.Outcome State Fault Refusal :=
  runInstr s (moveAddress .l src dst)

/-- MOVAQ (R465). -/
def execMovaq (src dst : Spec) (s : State) : Host.Outcome State Fault Refusal :=
  runInstr s (moveAddress .q src dst)

/-- PUSHAB (R466). -/
def execPushab (src : Spec) (s : State) : Host.Outcome State Fault Refusal :=
  runInstr s (pushAddress .b src)

/-- PUSHAW (R467). -/
def execPushaw (src : Spec) (s : State) : Host.Outcome State Fault Refusal :=
  runInstr s (pushAddress .w src)

/-- PUSHAL (R468). -/
def execPushal (src : Spec) (s : State) : Host.Outcome State Fault Refusal :=
  runInstr s (pushAddress .l src)

/-- PUSHAQ (R469). -/
def execPushaq (src : Spec) (s : State) : Host.Outcome State Fault Refusal :=
  runInstr s (pushAddress .q src)

end Sys2Proof.Machine
end

