-- ==== Sys2Proof/Machine/Strings.lean ====
section
/-! DEFINITION. Character string instructions and CRC, each in three phases: every read, then every write check, then
every write (45_string_decimal.md R670 to R683). -/
namespace Sys2Proof.Machine
open Sys2Proof

/-- The n bytes at va, in ascending order (R670). -/
def readBytes : Nat → Word → M (List Byte)
  | 0, _ => pure []
  | n + 1, va => do
    let b ← memReadByte va
    let bs ← readBytes n (va + 1)
    pure (b :: bs)

/-- The write checks of n bytes at va, in ascending order (R670). -/
def checkBytes : Nat → Word → M Unit
  | 0, _ => pure ()
  | n + 1, va => do
    probeWrite false va 1
    checkBytes n (va + 1)

/-- Bytes written at va, in ascending order (R670). -/
def writeBytes : Word → List Byte → M Unit
  | _, [] => pure ()
  | va, b :: bs => do
    memWriteByte va b
    writeBytes (va + 1) bs

/-- A destination string checked, then written (R670, phases 2 and 3). DESIGN CHOICE (log 55): the check and the write of a byte are
two references, each translated with free bits of its own, so that a write may fault after bytes before it are stored. -/
def putString (va : Word) (bs : List Byte) : M Unit := do
  checkBytes bs.length va
  writeBytes va bs

/-- n free bytes: an UNPREDICTABLE string (log 13). -/
def drawBytes : Nat → M (List Byte)
  | 0 => pure []
  | n + 1 => do
    let b ← draw 8
    let bs ← drawBytes n
    pure (b :: bs)

/-- n bytes at a and m bytes at b share a byte. -/
def overlap (a : Word) (n : Nat) (b : Word) (m : Nat) : Bool :=
  decide (0 < n ∧ 0 < m) && (decide ((b - a).toNat < n) || decide ((a - b).toNat < m))

/-- Registers from number n on replaced by the values of a list (R671). -/
def putRegs : Reg → List Word → M Unit
  | _, [] => pure ()
  | n, v :: vs => do
    putReg n v
    putRegs (n + 1) vs

/-- A length operand; no operand of a string instruction lies in I/O space (R671). -/
def readLen (sp : Spec) : M (BitVec 16) := readInt 16 false sp

/-- A string's address. -/
def stringAddr (sp : Spec) : M Word := addressOp .b false sp

/-- zext of a length. -/
def lenWord (n : BitVec 16) : Word := n.setWidth 32

/-! ### Move -/

/-- MOVC3 (R672). -/
def execMovc3 (len srcaddr dstaddr : Spec) (s : State) : Host.Outcome State Fault Refusal :=
  runInstr s do
    let n ← readLen len
    let a ← stringAddr srcaddr
    let d ← stringAddr dstaddr
    let bs ← readBytes n.toNat a
    putString d bs
    putRegs 0 [0, a + lenWord n, 0, d + lenWord n, 0, 0]
    finish ⟨false, true, false, false⟩

/-- The smaller of two lengths. -/
def minLen (a b : BitVec 16) : BitVec 16 := if a.ult b then a else b

/-- MOVC5 (R673). -/
def execMovc5 (srclen srcaddr fill dstlen dstaddr : Spec) (s : State) : Host.Outcome State Fault Refusal :=
  runInstr s do
    let n ← readLen srclen
    let a ← stringAddr srcaddr
    let f ← readInt 8 false fill
    let k ← readLen dstlen
    let d ← stringAddr dstaddr
    let m := minLen n k
    let bs ← readBytes m.toNat a
    putString d (bs ++ List.replicate (k.toNat - m.toNat) f)
    putRegs 0 [lenWord (n - m), a + lenWord m, 0, d + lenWord k, 0, 0]
    finish (compared n k)

/-- The translation of the bytes of a string through a table (R681). -/
def translateBytes (tbl : Word) : Nat → Word → M (List Byte)
  | 0, _ => pure []
  | n + 1, va => do
    let b ← memReadByte va
    let t ← memReadByte (tbl + b.setWidth 32)
    let ts ← translateBytes tbl n (va + 1)
    pure (t :: ts)

/-- MOVTC (R681). A destination that overlaps the table gets free bytes (log 13). -/
def execMovtc (srclen srcaddr fill tbladdr dstlen dstaddr : Spec) (s : State) : Host.Outcome State Fault Refusal :=
  runInstr s do
    let n ← readLen srclen
    let a ← stringAddr srcaddr
    let f ← readInt 8 false fill
    let t ← stringAddr tbladdr
    let k ← readLen dstlen
    let d ← stringAddr dstaddr
    let m := minLen n k
    let ts ← translateBytes t m.toNat a
    let bs ← if overlap d k.toNat t 256 then drawBytes k.toNat
      else pure (ts ++ List.replicate (k.toNat - m.toNat) f)
    putString d bs
    putRegs 0 [lenWord (n - m), a + lenWord m, 0, t, 0, d + lenWord k]
    finish (compared n k)

/-- The bytes MOVTUC translates before the escape, at most n (R682). -/
def translateUntil (tbl : Word) (esc : Byte) : Nat → Word → M (List Byte)
  | 0, _ => pure []
  | n + 1, va => do
    let b ← memReadByte va
    let t ← memReadByte (tbl + b.setWidth 32)
    if t = esc then pure []
    else do
      let ts ← translateUntil tbl esc n (va + 1)
      pure (t :: ts)

/-- MOVTUC (R682). A destination that overlaps the source or the table gets a free number of free bytes (log 13). -/
def execMovtuc (srclen srcaddr esc tbladdr dstlen dstaddr : Spec) (s : State) : Host.Outcome State Fault Refusal :=
  runInstr s do
    let n ← readLen srclen
    let a ← stringAddr srcaddr
    let e ← readInt 8 false esc
    let t ← stringAddr tbladdr
    let k ← readLen dstlen
    let d ← stringAddr dstaddr
    let m := (minLen n k).toNat
    let ts ← translateUntil t e m a
    let bs ← if overlap d k.toNat a n.toNat || overlap d k.toNat t 256 then do
        let c ← draw 16
        drawBytes (c.toNat % (m + 1))
      else pure ts
    putString d bs
    let j : BitVec 16 := BitVec.ofNat 16 bs.length
    putRegs 0 [lenWord (n - j), a + lenWord j, 0, t, lenWord (k - j), d + lenWord j]
    finish { compared n k with v := decide (bs.length < m) }

/-! ### Compare -/

/-- Byte i of a string of n bytes, or the fill beyond its end (R675). -/
def byteOrFill (fill : Byte) (n : Nat) (a : Word) (i : Nat) : M Byte :=
  if i < n then memReadByte (a + BitVec.ofNat 32 i) else pure fill

/-- The number of equal leading positions from i on, among left ones, and the unequal pair (R674, R675). -/
def compareFrom (fill : Byte) (n1 : Nat) (a1 : Word) (n2 : Nat) (a2 : Word) : Nat → Nat → M (Nat × Option (Byte × Byte))
  | 0, i => pure (i, none)
  | left + 1, i => do
    let b1 ← byteOrFill fill n1 a1 i
    let b2 ← byteOrFill fill n2 a2 i
    if b1 = b2 then compareFrom fill n1 a1 n2 a2 left (i + 1) else pure (i, some (b1, b2))

/-- The end of a comparison (R674). -/
def finishCompare (n1 n2 : BitVec 16) (a1 a2 : Word) (k : Nat) (p : Option (Byte × Byte)) : M Completion := do
  let k1 := BitVec.ofNat 32 (min k n1.toNat)
  let k2 := BitVec.ofNat 32 (min k n2.toNat)
  putRegs 0 [lenWord n1 - k1, a1 + k1, lenWord n2 - k2, a2 + k2]
  match p with
  | none => finish ⟨false, true, false, false⟩
  | some (b1, b2) => finish ⟨b1.slt b2, false, false, b1.ult b2⟩

/-- CMPC3 (R674). -/
def execCmpc3 (len src1addr src2addr : Spec) (s : State) : Host.Outcome State Fault Refusal :=
  runInstr s do
    let n ← readLen len
    let a1 ← stringAddr src1addr
    let a2 ← stringAddr src2addr
    let (k, p) ← compareFrom 0 n.toNat a1 n.toNat a2 n.toNat 0
    finishCompare n n a1 a2 k p

/-- CMPC5 (R675). -/
def execCmpc5 (src1len src1addr fill src2len src2addr : Spec) (s : State) : Host.Outcome State Fault Refusal :=
  runInstr s do
    let n1 ← readLen src1len
    let a1 ← stringAddr src1addr
    let f ← readInt 8 false fill
    let n2 ← readLen src2len
    let a2 ← stringAddr src2addr
    let (k, p) ← compareFrom f n1.toNat a1 n2.toNat a2 (max n1.toNat n2.toNat) 0
    finishCompare n1 n2 a1 a2 k p

/-! ### Search -/

/-- The number of bytes of a string passed over before the first that satisfies p (R676, R678). -/
def passOver (p : Byte → M Bool) : Nat → Word → M Nat
  | 0, _ => pure 0
  | n + 1, va => do
    let b ← memReadByte va
    let stop ← p b
    if stop then pure 0
    else do
      let k ← passOver p n (va + 1)
      pure (k + 1)

/-- The condition codes of a search: Z tells that no byte is left (R676). -/
def finishSearch (left : Word) : M Completion := finish ⟨false, left == 0, false, false⟩

/-- len.rw, addr.ab, tbladdr.ab, mask.rb: stop where the masked table entry is nonzero as want says (R676, R677). -/
def scanString (want : Bool) (len addr tbladdr mask : Spec) : M Completion := do
  let n ← readLen len
  let a ← stringAddr addr
  let t ← stringAddr tbladdr
  let m ← readInt 8 false mask
  let k ← passOver (fun b => do
    let e ← memReadByte (t + b.setWidth 32)
    pure ((e &&& m != 0) == want)) n.toNat a
  let left := lenWord n - BitVec.ofNat 32 k
  putRegs 0 [left, a + BitVec.ofNat 32 k, 0, t]
  finishSearch left

/-- SCANC (R676). -/
def execScanc (len addr tbladdr mask : Spec) (s : State) : Host.Outcome State Fault Refusal :=
  runInstr s (scanString true len addr tbladdr mask)

/-- SPANC (R677). -/
def execSpanc (len addr tbladdr mask : Spec) (s : State) : Host.Outcome State Fault Refusal :=
  runInstr s (scanString false len addr tbladdr mask)

/-- char.rb, len.rw, addr.ab: stop where equality with the character is want (R678, R679). -/
def locateChar (want : Bool) (char len addr : Spec) : M Completion := do
  let c ← readInt 8 false char
  let n ← readLen len
  let a ← stringAddr addr
  let k ← passOver (fun b => pure ((b == c) == want)) n.toNat a
  let left := lenWord n - BitVec.ofNat 32 k
  putRegs 0 [left, a + BitVec.ofNat 32 k]
  finishSearch left

/-- LOCC (R678). -/
def execLocc (char len addr : Spec) (s : State) : Host.Outcome State Fault Refusal :=
  runInstr s (locateChar true char len addr)

/-- SKPC (R679). -/
def execSkpc (char len addr : Spec) (s : State) : Host.Outcome State Fault Refusal :=
  runInstr s (locateChar false char len addr)

/-- The n bytes at a equal those at b. -/
def sameBytes : Nat → Word → Word → M Bool
  | 0, _, _ => pure true
  | n + 1, a, b => do
    let x ← memReadByte a
    let y ← memReadByte b
    if x = y then sameBytes n (a + 1) (b + 1) else pure false

/-- The first offset from j on, among tries of them, at which the object of n bytes stands in the source (R680). -/
def matchFrom (n : Nat) (obj src : Word) : Nat → Nat → M (Option Nat)
  | 0, _ => pure none
  | tries + 1, j => do
    let same ← sameBytes n obj (src + BitVec.ofNat 32 j)
    if same then pure (some j) else matchFrom n obj src tries (j + 1)

/-- MATCHC (R680). -/
def execMatchc (objlen objaddr srclen srcaddr : Spec) (s : State) : Host.Outcome State Fault Refusal :=
  runInstr s do
    let n ← readLen objlen
    let o ← stringAddr objaddr
    let k ← readLen srclen
    let a ← stringAddr srcaddr
    let found ← matchFrom n.toNat o a (k.toNat + 1 - n.toNat) 0
    match found with
    | some j =>
      let fin := BitVec.ofNat 32 j + lenWord n
      putRegs 0 [0, o + lenWord n, lenWord k - fin, a + fin]
    | none => putRegs 0 [lenWord n, o, 0, a + lenWord k]
    finish ⟨false, found.isSome, false, false⟩

/-! ### CRC -/

/-- One half of a byte's step: a nibble shifted out selects a table entry (R683). -/
def crcNibble (tbl tmp : Word) : M Word := do
  let e ← memReadLong (tbl + 4 * (tmp &&& 0xF))
  pure ((tmp >>> 4) ^^^ e)

/-- The bytes of the stream taken in (R683). -/
def crcBytes (tbl : Word) : Nat → Word → Word → M Word
  | 0, _, tmp => pure tmp
  | n + 1, va, tmp => do
    let b ← memReadByte va
    let t1 ← crcNibble tbl (tmp ^^^ b.setWidth 32)
    let t2 ← crcNibble tbl t1
    crcBytes tbl n (va + 1) t2

/-- CRC (R683). -/
def execCrc (tbl inicrc strlen stream : Spec) (s : State) : Host.Outcome State Fault Refusal :=
  runInstr s do
    let t ← stringAddr tbl
    let c ← readInt 32 false inicrc
    let n ← readLen strlen
    let a ← stringAddr stream
    let r ← crcBytes t n.toNat a c
    putRegs 0 [r, 0, 0, a + lenWord n]
    finish (ccOf r false false)

end Sys2Proof.Machine
end

