-- ==== Sys2Proof/Machine/DecimalData.lean ====
section
/-! DEFINITION. Decimal string data: packed, leading separate, trailing numeric (45_string_decimal.md R684 to R686). -/
namespace Sys2Proof.Machine
open Sys2Proof

/-- The bytes a packed string of n digits occupies (R684). -/
def packedBytes (n : Nat) : Nat := n / 2 + 1

/-- The nibbles of bytes, the high one of each first (R684). -/
def nibbles : List Byte → List Nat
  | [] => []
  | b :: bs => b.toNat / 16 :: b.toNat % 16 :: nibbles bs

/-- Nibbles packed two to a byte. -/
def packNibbles : List Nat → List Byte
  | h :: l :: t => BitVec.ofNat 8 (16 * h + l) :: packNibbles t
  | _ => []

/-- A decimal string taken apart: its digits, most significant first, and whether its sign is minus. -/
structure Digits where
  digits : List Nat
  neg : Bool
  deriving DecidableEq, Repr

/-- The number a list of digits denotes. -/
def digitsValue (ds : List Nat) : Nat := ds.foldl (fun v d => 10 * v + d) 0

/-- DVal (R684). -/
def Digits.value (d : Digits) : Int := if d.neg then -(digitsValue d.digits : Int) else (digitsValue d.digits : Int)

/-- The n low-order decimal digits of a number, most significant first. -/
def digitsOf : Nat → Nat → List Nat
  | 0, _ => []
  | n + 1, v => digitsOf n (v / 10) ++ [v % 10]

/-- A sign nibble means minus: B and D (R684). -/
def minusNibble (n : Nat) : Bool := n == 11 || n == 13

/-- The digits of a packed string of n digits, none if its contents are invalid (R684). -/
def unpack (n : Nat) (bs : List Byte) : Option Digits :=
  let ns := nibbles bs
  let sign := ns.getLastD 0
  let all := ns.dropLast
  let unused := all.take (all.length - n)
  let ds := all.drop (all.length - n)
  if unused.all (· == 0) && ds.all (fun d => decide (d < 10)) && decide (9 < sign) then some ⟨ds, minusNibble sign⟩ else none

/-- The bytes of a packed string of n digits (R685): unused nibble 0, sign C or D. -/
def packDecimal (n mag : Nat) (neg : Bool) : List Byte :=
  packNibbles ((if n % 2 = 0 then [0] else []) ++ digitsOf n mag ++ [if neg then 13 else 12])

/-- Reserved operand fault for a length above 31 (R684). -/
def checkDecimalLen (n : BitVec 16) : M Unit := if 31 < n.toNat then reservedOperand else pure ()

/-- A packed source read; none if its contents are invalid (R684). -/
def readPacked (n : BitVec 16) (a : Word) : M (Option Digits) := do
  let bs ← readBytes (packedBytes n.toNat) a
  pure (unpack n.toNat bs)

/-- DVal of a packed source; none, an UNPREDICTABLE value, for invalid contents (log 13). -/
def packedValue (n : BitVec 16) (a : Word) : M (Option Int) := do
  let d ← readPacked n a
  pure (d.map Digits.value)

/-- A decimal result: the bytes to store, N, Z and overflow (R685). -/
structure DecimalResult where
  bytes : List Byte
  n : Bool
  z : Bool
  v : Bool

/-- The magnitude stored and the overflow of a value in n digits (R685). -/
def decimalMag (n : Nat) (x : Int) : Nat := x.natAbs % 10 ^ n

/-- The value does not fit n digits (R685). -/
def decimalOvf (n : Nat) (x : Int) : Bool := decide (10 ^ n ≤ x.natAbs)

/-- A result written by f from n, the magnitude and the sign: a zero is plus unless the value overflowed (R685). -/
def decimalResult (f : Nat → Nat → Bool → List Byte) (n : Nat) (x : Int) : DecimalResult :=
  let mag := decimalMag n x
  let ovf := decimalOvf n x
  let neg := decide (x < 0)
  ⟨f n mag (neg && (mag != 0 || ovf)), neg && mag != 0, mag == 0, ovf⟩

/-- A result of k free bytes and free condition codes (log 13). -/
def drawResult (k : Nat) : M DecimalResult := do
  let bs ← drawBytes k
  let f ← draw 3
  pure ⟨bs, f.getLsbD 0, f.getLsbD 1, f.getLsbD 2⟩

/-- The result for a value, free for an UNPREDICTABLE one: k is the number of bytes (log 13). -/
def resultOf (k : Nat) (f : Int → DecimalResult) : Option Int → M DecimalResult
  | some x => pure (f x)
  | none => drawResult k

/-- A destination of m bytes at d shares a byte with a source of n bytes at a, the two not being one operand of one length
(R685). -/
def clash (d : Word) (dlen : BitVec 16) (m : Nat) (a : Word) (alen : BitVec 16) (n : Nat) : Bool :=
  overlap d m a n && !(d == a && dlen == alen)

/-- Packed strings of dlen and alen digits clash (R685). -/
def clashPacked (d : Word) (dlen : BitVec 16) (a : Word) (alen : BitVec 16) : Bool :=
  clash d dlen (packedBytes dlen.toNat) a alen (packedBytes alen.toNat)

/-- The condition codes of a decimal result with C as given, and the decimal overflow trap when DV is set (R685). -/
def finishDecimal (n z v c : Bool) : M Completion := do
  putCC ⟨n, z, v, c⟩
  let p ← getPsl
  pure (if v && p.getLsbD pslDV then .trap trapDecOverflow else .done)

/-- The ASCII code of a digit (R686). -/
def asciiDigit (d : Nat) : Byte := BitVec.ofNat 8 (0x30 + d)

/-- The digits of a string of ASCII digits; reserved operand fault for another byte (R686). -/
def asciiDigits : List Byte → M (List Nat)
  | [] => pure []
  | b :: bs =>
    if 0x30 ≤ b.toNat ∧ b.toNat ≤ 0x39 then do
      let ds ← asciiDigits bs
      pure ((b.toNat - 0x30) :: ds)
    else reservedOperand

/-- The bytes of a leading separate string (R686). -/
def separateBytes (n mag : Nat) (neg : Bool) : List Byte :=
  (if neg then (0x2D : Byte) else 0x2B) :: (digitsOf n mag).map asciiDigit

end Sys2Proof.Machine
end

