-- ==== Sys2Proof/Machine/Decimal.lean ====
section
/-! DEFINITION. Decimal string instructions (45_string_decimal.md R687 to R702). -/
namespace Sys2Proof.Machine
open Sys2Proof

/-! ### Move and compare -/

/-- MOVP (R687): V cleared, C kept. -/
def execMovp (len srcaddr dstaddr : Spec) (s : State) : Host.Outcome State Fault Refusal :=
  runInstr s do
    let n ← readLen len
    let a ← stringAddr srcaddr
    let d ← stringAddr dstaddr
    checkDecimalLen n
    let v ← packedValue n a
    let v := if clashPacked d n a n then none else v
    let r ← resultOf (packedBytes n.toNat) (decimalResult packDecimal n.toNat) v
    putString d r.bytes
    putRegs 0 [0, a, 0, d]
    let old ← getCC
    finish ⟨r.n, r.z, false, old.c⟩

/-- The comparison of two packed strings (R688); free where one is invalid (log 13). -/
def comparePacked (n1 : BitVec 16) (a1 : Word) (n2 : BitVec 16) (a2 : Word) : M Completion := do
  checkDecimalLen n1
  checkDecimalLen n2
  let x ← packedValue n1 a1
  let y ← packedValue n2 a2
  putRegs 0 [0, a1, 0, a2]
  match x, y with
  | some x, some y => finish ⟨decide (x < y), x == y, false, false⟩
  | _, _ => do
    let f ← draw 2
    finish ⟨f.getLsbD 1, f.getLsbD 0, false, false⟩

/-- CMPP3 (R688). -/
def execCmpp3 (len src1addr src2addr : Spec) (s : State) : Host.Outcome State Fault Refusal :=
  runInstr s do
    let n ← readLen len
    let a1 ← stringAddr src1addr
    let a2 ← stringAddr src2addr
    comparePacked n a1 n a2

/-- CMPP4 (R689). -/
def execCmpp4 (src1len src1addr src2len src2addr : Spec) (s : State) : Host.Outcome State Fault Refusal :=
  runInstr s do
    let n1 ← readLen src1len
    let a1 ← stringAddr src1addr
    let n2 ← readLen src2len
    let a2 ← stringAddr src2addr
    comparePacked n1 a1 n2 a2

/-! ### Arithmetic -/

/-- The packed operands of an arithmetic instruction: two sources and a destination. -/
structure PackedOps where
  n1 : BitVec 16
  a1 : Word
  n2 : BitVec 16
  a2 : Word
  nd : BitVec 16
  d : Word

/-- The two sources' values, none where UNPREDICTABLE; the lengths are checked first (R684). -/
def PackedOps.values (o : PackedOps) : M (Option Int × Option Int) := do
  checkDecimalLen o.n1
  checkDecimalLen o.n2
  checkDecimalLen o.nd
  let x ← packedValue o.n1 o.a1
  let y ← packedValue o.n2 o.a2
  pure (x, y)

/-- The destination clashes with a source (R685). -/
def PackedOps.clashes (o : PackedOps) : Bool :=
  clashPacked o.d o.nd o.a1 o.n1 || clashPacked o.d o.nd o.a2 o.n2

/-- A packed result stored, the registers and the condition codes set (R685). -/
def PackedOps.store (o : PackedOps) (regs : List Word) (v : Option Int) : M Completion := do
  let r ← resultOf (packedBytes o.nd.toNat) (decimalResult packDecimal o.nd.toNat) (if o.clashes then none else v)
  putString o.d r.bytes
  putRegs 0 regs
  finishDecimal r.n r.z r.v false

/-- len.rw, addr.ab, len.rw, addr.ab: the second string is source and destination. -/
def packedOps4 (len1 addr1 len2 addr2 : Spec) : M PackedOps := do
  let n1 ← readLen len1
  let a1 ← stringAddr addr1
  let n2 ← readLen len2
  let a2 ← stringAddr addr2
  pure ⟨n1, a1, n2, a2, n2, a2⟩

/-- Three pairs of len.rw and addr.ab. -/
def packedOps6 (len1 addr1 len2 addr2 len3 addr3 : Spec) : M PackedOps := do
  let n1 ← readLen len1
  let a1 ← stringAddr addr1
  let n2 ← readLen len2
  let a2 ← stringAddr addr2
  let n3 ← readLen len3
  let a3 ← stringAddr addr3
  pure ⟨n1, a1, n2, a2, n3, a3⟩

/-- f of two values, when both are known. -/
def both (f : Int → Int → Int) : Option Int × Option Int → Option Int
  | (some x, some y) => some (f x y)
  | _ => none

/-- ADDP4 and SUBP4 (R690, R692): f takes the first value and the second. -/
def packed4 (f : Int → Int → Int) (len1 addr1 len2 addr2 : Spec) : M Completion := do
  let o ← packedOps4 len1 addr1 len2 addr2
  let v ← o.values
  o.store [0, o.a1, 0, o.a2] (both f v)

/-- ADDP6, SUBP6 and MULP (R691, R693, R694). -/
def packed6 (f : Int → Int → Int) (len1 addr1 len2 addr2 len3 addr3 : Spec) : M Completion := do
  let o ← packedOps6 len1 addr1 len2 addr2 len3 addr3
  let v ← o.values
  o.store [0, o.a1, 0, o.a2, 0, o.d] (both f v)

/-- ADDP4 (R690). -/
def execAddp4 (addlen addaddr sumlen sumaddr : Spec) (s : State) : Host.Outcome State Fault Refusal :=
  runInstr s (packed4 (fun x y => y + x) addlen addaddr sumlen sumaddr)

/-- ADDP6 (R691). -/
def execAddp6 (add1len add1addr add2len add2addr sumlen sumaddr : Spec) (s : State) : Host.Outcome State Fault Refusal :=
  runInstr s (packed6 (fun x y => x + y) add1len add1addr add2len add2addr sumlen sumaddr)

/-- SUBP4 (R692). -/
def execSubp4 (sublen subaddr diflen difaddr : Spec) (s : State) : Host.Outcome State Fault Refusal :=
  runInstr s (packed4 (fun x y => y - x) sublen subaddr diflen difaddr)

/-- SUBP6 (R693). -/
def execSubp6 (sublen subaddr minlen minaddr diflen difaddr : Spec) (s : State) : Host.Outcome State Fault Refusal :=
  runInstr s (packed6 (fun x y => y - x) sublen subaddr minlen minaddr diflen difaddr)

/-- MULP (R694). -/
def execMulp (mulrlen mulraddr muldlen muldaddr prodlen prodaddr : Spec) (s : State) : Host.Outcome State Fault Refusal :=
  runInstr s (packed6 (fun x y => y * x) mulrlen mulraddr muldlen muldaddr prodlen prodaddr)

/-- n free longwords. -/
def drawWords : Nat → M (List Word)
  | 0 => pure []
  | n + 1 => do
    let w ← draw 32
    let ws ← drawWords n
    pure (w :: ws)

/-- Decimal divide by zero (R695): the quotient string, R0 to R5 and the condition codes are free, and it always traps. -/
def PackedOps.divideByZero (o : PackedOps) : M Completion := do
  let bs ← drawBytes (packedBytes o.nd.toNat)
  putString o.d bs
  let ws ← drawWords 6
  putRegs 0 ws
  let f ← drawCC
  putCC f
  pure (.trap trapDivZero)

/-- DIVP (R695). An UNPREDICTABLE divisor may be zero, a free bit (log 13). -/
def execDivp (divrlen divraddr divdlen divdaddr quolen quoaddr : Spec) (s : State) : Host.Outcome State Fault Refusal :=
  runInstr s do
    let o ← packedOps6 divrlen divraddr divdlen divdaddr quolen quoaddr
    let v ← o.values
    let zero ← match v.1 with
      | some x => pure (x == 0)
      | none => drawBit
    if zero then o.divideByZero
    else o.store [0, o.a1, 0, o.a2, 0, o.d] (both (fun x y => y.tdiv x) v)

/-! ### Conversions and shift -/

/-- CVTLP (R696). -/
def execCvtlp (src dstlen dstaddr : Spec) (s : State) : Host.Outcome State Fault Refusal :=
  runInstr s do
    let x ← readInt 32 false src
    let n ← readLen dstlen
    let d ← stringAddr dstaddr
    checkDecimalLen n
    let r := decimalResult packDecimal n.toNat x.toInt
    putString d r.bytes
    putRegs 0 [0, 0, 0, d]
    finishDecimal r.n r.z r.v false

/-- CVTPL (R697): the destination is written after R0 to R3. An invalid source gives a free longword and V (log 13). -/
def execCvtpl (srclen srcaddr dst : Spec) (s : State) : Host.Outcome State Fault Refusal :=
  runInstr s do
    let n ← readLen srclen
    let a ← stringAddr srcaddr
    let l ← locate .write .l false dst
    checkDecimalLen n
    let v ← packedValue n a
    let (r, ovf) ← match v with
      | some x => pure (BitVec.ofInt 32 x, outOfRange 32 x)
      | none => do
        let r ← draw 32
        let b ← drawBit
        pure (r, b)
    checkStore false 32 l
    putRegs 0 [0, a, 0, 0]
    storeLoc false false l r
    finishInt (ccOf r ovf false)

/-- The bytes of a trailing numeric string of n digits, the last one from the table (R698). -/
def trailingBytes (tbl : Word) (n mag : Nat) (neg : Bool) : M (List Byte) :=
  if n = 0 then pure []
  else do
    let k := 16 * (mag % 10) + (if neg then 13 else 12)
    let last ← memReadByte (tbl + BitVec.ofNat 32 k)
    pure ((digitsOf (n - 1) (mag / 10)).map asciiDigit ++ [last])

/-- CVTPT (R698). DESIGN CHOICE (log 13): with invalid packed contents, or a destination that overlaps the source, the table's byte
is not read, so that no fault on reading it is taken. -/
def execCvtpt (srclen srcaddr tbladdr dstlen dstaddr : Spec) (s : State) : Host.Outcome State Fault Refusal :=
  runInstr s do
    let n ← readLen srclen
    let a ← stringAddr srcaddr
    let t ← stringAddr tbladdr
    let k ← readLen dstlen
    let d ← stringAddr dstaddr
    checkDecimalLen n
    checkDecimalLen k
    let v ← packedValue n a
    let v := if clash d k k.toNat a n (packedBytes n.toNat) then none else v
    let r ← match v with
      | none => drawResult k.toNat
      | some x => do
        let r := decimalResult (fun _ _ _ => []) k.toNat x
        let bs ← trailingBytes t k.toNat (decimalMag k.toNat x) (decide (x < 0) && (!r.z || r.v))
        pure { r with bytes := bs }
    putString d r.bytes
    putRegs 0 [0, a, 0, d]
    finishDecimal r.n r.z r.v false

/-- The value of a trailing numeric source of n digits (R699). DESIGN CHOICE (log 50): the leading digits are checked before the
table byte of the last one is read. -/
def trailingValue (tbl : Word) (n : Nat) (a : Word) : M Int :=
  if n = 0 then pure 0
  else do
    let bs ← readBytes n a
    let lead ← asciiDigits bs.dropLast
    let t ← memReadByte (tbl + (bs.getLastD 0).setWidth 32)
    if 9 < t.toNat / 16 ∨ t.toNat % 16 < 10 then reservedOperand
    else pure (Digits.value ⟨lead ++ [t.toNat / 16], minusNibble (t.toNat % 16)⟩)

/-- A value stored as a packed string of k digits at d, free where the source of m bytes at a clashes; R0 to R3 as R699
and R701 give them. -/
def storeConverted (n : BitVec 16) (a : Word) (m : Nat) (k : BitVec 16) (d : Word) (v : Option Int) : M Completion := do
  let v := if clash d k (packedBytes k.toNat) a n m then none else v
  let r ← resultOf (packedBytes k.toNat) (decimalResult packDecimal k.toNat) v
  putString d r.bytes
  putRegs 0 [0, a, 0, d]
  finishDecimal r.n r.z r.v false

/-- CVTTP (R699). -/
def execCvttp (srclen srcaddr tbladdr dstlen dstaddr : Spec) (s : State) : Host.Outcome State Fault Refusal :=
  runInstr s do
    let n ← readLen srclen
    let a ← stringAddr srcaddr
    let t ← stringAddr tbladdr
    let k ← readLen dstlen
    let d ← stringAddr dstaddr
    checkDecimalLen n
    checkDecimalLen k
    let v ← trailingValue t n.toNat a
    storeConverted n a n.toNat k d (some v)

/-- CVTPS (R700). -/
def execCvtps (srclen srcaddr dstlen dstaddr : Spec) (s : State) : Host.Outcome State Fault Refusal :=
  runInstr s do
    let n ← readLen srclen
    let a ← stringAddr srcaddr
    let k ← readLen dstlen
    let d ← stringAddr dstaddr
    checkDecimalLen n
    checkDecimalLen k
    let v ← packedValue n a
    let v := if clash d k (k.toNat + 1) a n (packedBytes n.toNat) then none else v
    let r ← resultOf (k.toNat + 1) (decimalResult separateBytes k.toNat) v
    putString d r.bytes
    putRegs 0 [0, a, 0, d]
    finishDecimal r.n r.z r.v false

/-- The sign of a leading separate string; reserved operand fault for another byte (R686, R701). -/
def separateSign (b : Byte) : M Bool :=
  if b = 0x2D then pure true else if b = 0x2B ∨ b = 0x20 then pure false else reservedOperand

/-- CVTSP (R701). -/
def execCvtsp (srclen srcaddr dstlen dstaddr : Spec) (s : State) : Host.Outcome State Fault Refusal :=
  runInstr s do
    let n ← readLen srclen
    let a ← stringAddr srcaddr
    let k ← readLen dstlen
    let d ← stringAddr dstaddr
    checkDecimalLen n
    checkDecimalLen k
    let bs ← readBytes (n.toNat + 1) a
    let neg ← separateSign (bs.headD 0)
    let ds ← asciiDigits bs.tail
    storeConverted n a (n.toNat + 1) k d (some (Digits.value ⟨ds, neg⟩))

/-- A value shifted by k decimal places, the digit round added to the most significant digit shifted out (R702). -/
def shiftDecimal (k : Int) (round : Nat) (v : Int) : Int :=
  if 0 ≤ k then v * 10 ^ k.toNat
  else
    let j := (-k).toNat
    v.sign * (((v.natAbs + round * 10 ^ (j - 1)) / 10 ^ j : Nat) : Int)

/-- ASHP (R702). -/
def execAshp (cnt srclen srcaddr round dstlen dstaddr : Spec) (s : State) : Host.Outcome State Fault Refusal :=
  runInstr s do
    let k ← readInt 8 false cnt
    let n ← readLen srclen
    let a ← stringAddr srcaddr
    let rd ← readInt 8 false round
    let m ← readLen dstlen
    let d ← stringAddr dstaddr
    let o : PackedOps := ⟨n, a, n, a, m, d⟩
    checkDecimalLen n
    checkDecimalLen m
    let v ← packedValue n a
    o.store [0, a, 0, d] (v.map (shiftDecimal k.toInt (rd.toNat % 16)))

end Sys2Proof.Machine
end

