-- ==== Sys2Proof/Machine/Edit.lean ====
section
/-! DEFINITION. EDITPC (45_string_decimal.md R703, R704). -/
namespace Sys2Proof.Machine
open Sys2Proof

/-- The state of an edit (R703). -/
structure Edit where
  /-- The digits not yet consumed. -/
  digits : List Nat
  fill : Byte
  sign : Byte
  neg : Bool
  z : Bool
  v : Bool
  sig : Bool
  pp : Word
  dp : Word
  /-- The bytes put, with their addresses, latest first. -/
  out : List (Word × Byte)

/-- put (R703). -/
def Edit.put (e : Edit) (b : Byte) : Edit := { e with out := (e.dp, b) :: e.out, dp := e.dp + 1 }

/-- A byte put a number of times. -/
def Edit.putTimes (e : Edit) (b : Byte) : Nat → Edit
  | 0 => e
  | n + 1 => (e.putTimes b n).put b

/-- A byte stored at dp - back, dp unchanged (R704, codes 45 and 46). -/
def Edit.replaceBack (e : Edit) (back : Nat) (b : Byte) : Edit :=
  { e with out := (e.dp - BitVec.ofNat 32 back, b) :: e.out }

/-- EO$BLANK_ZERO: the n bytes before dp replaced (R704). -/
def Edit.blank (e : Edit) : Nat → Edit
  | 0 => e
  | n + 1 => (e.replaceBack (n + 1) e.fill).blank n

/-- next: the next digit; reserved operand for an empty queue (R703). -/
def Edit.next (e : Edit) : M (Nat × Edit) :=
  match e.digits with
  | [] => reservedOperand
  | d :: ds => pure (d, { e with digits := ds })

/-- A digit put, or the fill before significance (R704). -/
def Edit.putDigit (e : Edit) (d : Nat) : Edit := e.put (if e.sig then asciiDigit d else e.fill)

/-- EO$MOVE, and EO$FLOAT with float on, n times (R704). -/
def Edit.move (float : Bool) : Nat → Edit → M Edit
  | 0, e => pure e
  | n + 1, e => do
    let (d, e) ← e.next
    let e := if d != 0 ∧ float ∧ !e.sig then e.put e.sign else e
    let e := if d != 0 then { e with sig := true, z := false } else e
    Edit.move float n (e.putDigit d)

/-- EO$ADJUST_INPUT (R704). -/
def Edit.adjust (e : Edit) (len : Nat) : Edit :=
  let n := e.digits.length
  let lost := e.digits.take (n - len)
  let e := if lost.any (· != 0) then { e with z := false, v := true, sig := true } else e
  { e with digits := List.replicate (len - n) 0 ++ e.digits.drop (n - len) }

/-- An operator without operand byte, code 01 to 04 or 81 and above (R704). -/
def Edit.plain (e : Edit) (op : Nat) : M Edit :=
  if op = 1 then pure { (if e.sig then e else e.put e.sign) with sig := true }
  else if op = 2 then pure { e with sig := false }
  else if op = 3 then pure { e with sig := true }
  else if op = 4 then pure (e.put e.sign)
  else if 0x80 < op ∧ op < 0x90 then pure (e.putTimes e.fill (op - 0x80))
  else if 0x90 < op ∧ op < 0xA0 then Edit.move false (op - 0x90) e
  else if 0xA0 < op ∧ op < 0xB0 then Edit.move true (op - 0xA0) e
  else reservedOperand

/-- An operator 40 to 47 with its operand byte (R704). -/
def Edit.withByte (e : Edit) (op : Nat) (ch : Byte) : M Edit :=
  if op = 0x40 then pure { e with fill := ch }
  else if op = 0x41 then pure { e with sign := ch }
  else if op = 0x42 then pure (if e.neg then e else { e with sign := ch })
  else if op = 0x43 then pure (if e.neg then { e with sign := ch } else e)
  else if op = 0x44 then pure (e.put (if e.sig then ch else e.fill))
  else if op = 0x45 then pure (if e.z then e.blank ch.toNat else e)
  else if op = 0x46 then pure (if e.z then e.replaceBack ch.toNat e.fill else e)
  else if 31 < ch.toNat then reservedOperand
  else pure (e.adjust ch.toNat)

/-- The pattern interpreted up to EO$END (R703). The fuel is the number of addresses: within it a pattern without end
meets an address that faults. -/
def Edit.run : Nat → Edit → M Edit
  | 0, e => pure e
  | fuel + 1, e => do
    let b ← memReadByte e.pp
    let op := b.toNat
    if op = 0 then pure e
    else if 0x40 ≤ op ∧ op < 0x48 then do
      let ch ← memReadByte (e.pp + 1)
      let e ← e.withByte op ch
      Edit.run fuel { e with pp := e.pp + 2 }
    else do
      let e ← e.plain op
      Edit.run fuel { e with pp := e.pp + 1 }

/-- A byte put, among bytes put later that stand in ascending order of their distance from a base: left out where its address holds
one of them. -/
def placeByte (base : Word) (x : Word × Byte) : List (Word × Byte) → List (Word × Byte)
  | [] => [x]
  | y :: ys =>
    if x.1 = y.1 then y :: ys
    else if (x.1 - base).toNat < (y.1 - base).toNat then x :: y :: ys
    else y :: placeByte base x ys

/-- The destination bytes of an edit to d, each once with what was last put there, lowest address first (R670): an operator
reaches at most 255 bytes below d (R704). -/
def Edit.bytes (e : Edit) (d : Word) : List (Word × Byte) := e.out.foldl (fun l x => placeByte (d - 255) x l) []

/-- The write checks of destination bytes, in order (R670, phase 2): references apart from the writes (DESIGN CHOICE, log 55). -/
def checkOut : List (Word × Byte) → M Unit
  | [] => pure ()
  | (a, _) :: t => do
    probeWrite false a 1
    checkOut t

/-- Destination bytes written, in order (R670, phase 3). -/
def writeOut : List (Word × Byte) → M Unit
  | [] => pure ()
  | (a, b) :: t => do
    memWriteByte a b
    writeOut t

/-- An edit the architecture calls UNPREDICTABLE, of an invalid source or with a destination that overlaps the source or the
pattern: by a free bit a reserved operand fault, else any number of free bytes stored near the destination, with R3, R5 and the
condition codes free (R684, R703, D35; log 13). -/
def editFree (n : BitVec 16) (a d : Word) : M Completion := do
  let faults ← drawBit
  if faults then reservedOperand
  else do
    let back ← draw 8
    let k ← draw 32
    let bs ← drawBytes k.toNat
    putString (d - back.setWidth 32) bs
    let r3 ← draw 32
    let r5 ← draw 32
    putRegs 0 [lenWord n, a, 0, r3, 0, r5]
    let f ← drawCC
    finishDecimal f.n f.z f.v f.c

/-- A byte put stands in the source of n bytes at a, or in the pattern from p to its end operator. -/
def Edit.clashes (e : Edit) (a : Word) (n : Nat) (p : Word) : Bool :=
  e.out.any fun x => overlap x.1 1 a n || overlap x.1 1 p ((e.pp - p).toNat + 1)

/-- The edit of a source's digits to d under the pattern at p, before the pattern is run (R703). -/
def Edit.start (src : Digits) (p d : Word) : Edit where
  digits := src.digits
  fill := 0x20
  sign := if src.neg then 0x2D else 0x20
  neg := src.neg
  z := true
  v := false
  sig := false
  pp := p
  dp := d
  out := []

/-- EDITPC (R703). DESIGN CHOICE (log 13): with invalid packed contents the pattern is not read, so that no fault on reading it is
taken. -/
def execEditpc (srclen srcaddr pattern dstaddr : Spec) (s : State) : Host.Outcome State Fault Refusal :=
  runInstr s do
    let n ← readLen srclen
    let a ← stringAddr srcaddr
    let p ← stringAddr pattern
    let d ← stringAddr dstaddr
    checkDecimalLen n
    let src ← readPacked n a
    match src with
    | none => editFree n a d
    | some src => do
      let e ← Edit.run (2 ^ 32) (Edit.start src p d)
      if e.digits.isEmpty then pure () else reservedOperand
      if e.clashes a (packedBytes n.toNat) p then editFree n a d
      else do
        checkOut (e.bytes d)
        writeOut (e.bytes d)
        putRegs 0 [lenWord n, a, 0, e.pp, 0, e.dp]
        finishDecimal (e.neg && !e.z) e.z e.v e.sig

end Sys2Proof.Machine
end

