-- ==== Sys2Proof/Machine/Field.lean ====
section
/-! DEFINITION. Variable-length bit fields and branches on bits (43_field_queue_misc.md R540 to R557). -/
namespace Sys2Proof.Machine
open Sys2Proof

/-- A field's position, size and base, its validity not yet checked (R540). -/
structure FieldRef where
  pos : Word
  size : Byte
  base : Loc

/-- pos.rl, size.rb, base.vb: nothing of a field lies in I/O space (R540). -/
def fieldOperands (pos size base : Spec) : M FieldRef := do
  let p ← readInt 32 false pos
  let n ← readInt 8 false size
  let b ← locate .field .b false base
  pure ⟨p, n, b⟩

/-- The validity checks of a field (R540). -/
def FieldRef.check (f : FieldRef) : M Unit :=
  if 32 < f.size.toNat then reservedOperand
  else
    match f.base with
    | .reg n =>
      if f.size = 0 then pure ()
      else if 31 < f.pos.toNat then reservedOperand
      else if n = rSP ∧ 32 < f.pos.toNat + f.size.toNat then unpredictable
      else pure ()
    | _ => pure ()

/-- The address of the first byte of a field in memory (R541). -/
def fieldByte (a pos : Word) : Word := a + pos.sshiftRight 3

/-- The number of its first bit in that byte (R541). -/
def fieldBit (pos : Word) : Nat := (pos.setWidth 3).toNat

/-- The number of bytes that hold a bit of a field (R541). -/
def fieldBytes (pos : Word) (size : Nat) : Nat := (fieldBit pos + size + 7) / 8

/-- The bytes that hold a field, as a little-endian number; intent as loadVirtIn has it. -/
def fieldLoad (intent : Bool) (a pos : Word) (size : Nat) : M Nat := do
  let s ← get
  loadVirtIn s.cur false false intent (fieldByte a pos) (fieldBytes pos size)

/-- The size low-order bits of a number. -/
def lowBits (size v : Nat) : Nat := v % 2 ^ size

/-- FieldRead, zero-extended (R541). -/
def FieldRef.read (f : FieldRef) : M Word := do
  let size := f.size.toNat
  if size = 0 then pure 0
  else
    match f.base with
    | .mem a => do
      let v ← fieldLoad false a f.pos size
      pure (BitVec.ofNat 32 (lowBits size (v / 2 ^ fieldBit f.pos)))
    | .reg n => do
      let s ← get
      let v := if 32 < f.pos.toNat + size then s.regValue 64 n else (s.regValue 32 n).setWidth 64
      pure (BitVec.ofNat 32 (lowBits size (v.toNat / 2 ^ f.pos.toNat)))
    | .const _ => reservedAddressing

/-- A number with size bits from bit lo replaced. -/
def insertBits (x lo size v : Nat) : Nat :=
  x % 2 ^ lo + lowBits size v * 2 ^ lo + x / 2 ^ (lo + size) * 2 ^ (lo + size)

/-- FieldWrite (R541): a modify access. -/
def FieldRef.write (f : FieldRef) (v : Word) : M Unit := do
  let size := f.size.toNat
  if size = 0 then pure ()
  else
    match f.base with
    | .mem a => do
      let old ← fieldLoad true a f.pos size
      memWriteN (fieldByte a f.pos) (fieldBytes f.pos size) (insertBits old (fieldBit f.pos) size v.toNat)
    | .reg n => do
      let s ← get
      if 32 < f.pos.toNat + size then
        let new := insertBits (s.regValue 64 n).toNat f.pos.toNat size v.toNat
        set (s.setRegValue n (BitVec.ofNat 64 new))
      else
        let new := insertBits (s.reg n).toNat f.pos.toNat size v.toNat
        set (s.setReg n (BitVec.ofNat 32 new))
    | .const _ => reservedAddressing

/-- sextF: a value of size bits, 1 to 32, extended by its sign (R541). -/
def signField (size : Nat) (v : Word) : Word := (v <<< (32 - size)).sshiftRight (32 - size)

/-- A field's value as the instruction takes it (R542, R543): 0 for size 0. -/
def FieldRef.value (f : FieldRef) (signed : Bool) : M Word := do
  let v ← f.read
  pure (if signed && f.size != 0 then signField f.size.toNat v else v)

/-- pos, size, base, dst.wl: the field's value stored. -/
def extractField (signed : Bool) (pos size base dst : Spec) : M Completion := do
  let f ← fieldOperands pos size base
  let l ← writeOp 32 dst false
  f.check
  let v ← f.value signed
  storeOp l v false
  let old ← getCC
  finish (ccOf v false old.c)

/-- pos, size, base, src.rl: the field's value compared. -/
def compareField (signed : Bool) (pos size base src : Spec) : M Completion := do
  let f ← fieldOperands pos size base
  let a ← readOp 32 src false
  f.check
  let v ← f.value signed
  finish ⟨v.slt a, v == a, false, v.ult a⟩

/-- startpos, size, base, findpos.wl: the least bit of the field that is want (R547). -/
def findFirst (want : Bool) (startpos size base findpos : Spec) : M Completion := do
  let f ← fieldOperands startpos size base
  let l ← writeOp 32 findpos false
  f.check
  let v ← f.read
  let i := (List.range f.size.toNat).find? fun i => v.getLsbD i == want
  storeOp l (f.pos + BitVec.ofNat 32 (i.getD f.size.toNat)) false
  finish ⟨false, i.isNone, false, false⟩

/-- EXTV (R542). -/
def execExtv (pos : Spec) (size : Spec) (base : Spec) (dst : Spec) (s : State) : Host.Outcome State Fault Refusal :=
  runInstr s (extractField true pos size base dst)

/-- EXTZV (R543). -/
def execExtzv (pos : Spec) (size : Spec) (base : Spec) (dst : Spec) (s : State) : Host.Outcome State Fault Refusal :=
  runInstr s (extractField false pos size base dst)

/-- INSV (R544). -/
def execInsv (src : Spec) (pos : Spec) (size : Spec) (base : Spec) (s : State) : Host.Outcome State Fault Refusal :=
  runInstr s do
    let a ← readInt 32 false src
    let f ← fieldOperands pos size base
    f.check
    f.write a
    pure .done

/-- CMPV (R545). -/
def execCmpv (pos : Spec) (size : Spec) (base : Spec) (src : Spec) (s : State) : Host.Outcome State Fault Refusal :=
  runInstr s (compareField true pos size base src)

/-- CMPZV (R546). -/
def execCmpzv (pos : Spec) (size : Spec) (base : Spec) (src : Spec) (s : State) : Host.Outcome State Fault Refusal :=
  runInstr s (compareField false pos size base src)

/-- FFS (R547). -/
def execFfs (startpos : Spec) (size : Spec) (base : Spec) (findpos : Spec) (s : State) : Host.Outcome State Fault Refusal :=
  runInstr s (findFirst true startpos size base findpos)

/-- FFC (R548). -/
def execFfc (startpos : Spec) (size : Spec) (base : Spec) (findpos : Spec) (s : State) : Host.Outcome State Fault Refusal :=
  runInstr s (findFirst false startpos size base findpos)

/-- The bit of a branch on bit, replaced by v: its old value. In memory one byte is read and one written, under the SBI
interlock with ilk (R549). -/
def FieldRef.testAndSet (f : FieldRef) (v ilk : Bool) : M Word := do
  let new : Nat := if v then 1 else 0
  match f.base with
  | .mem a => do
    if ilk then awaitInterlock else pure ()
    let old ← fieldLoad true a f.pos 1
    memWriteN (fieldByte a f.pos) (fieldBytes f.pos 1) (insertBits old (fieldBit f.pos) 1 new)
    pure (BitVec.ofNat 32 (lowBits 1 (old / 2 ^ fieldBit f.pos)))
  | _ => do
    let old ← f.read
    f.write (BitVec.ofNat 32 new)
    pure old

/-- pos.rl, base.vb, displ.bb (R549): the branch is taken when the bit is want; the bit becomes new, where one is given. -/
def branchOnBit (want : Bool) (new : Option Bool) (ilk : Bool) (pos base : Spec) (displ : BitVec 8) : M Completion := do
  let p ← readInt 32 false pos
  let b ← locate .field .b false base
  let target ← branchTargetB displ
  let f : FieldRef := ⟨p, 1, b⟩
  f.check
  let bit ← match new with
    | some v => f.testAndSet v ilk
    | none => f.read
  branchIf ((bit == 1) == want) target
  pure .done

/-- BBS (R550). -/
def execBbs (pos : Spec) (base : Spec) (displ : BitVec 8) (s : State) : Host.Outcome State Fault Refusal :=
  runInstr s (branchOnBit true none false pos base displ)

/-- BBC (R551). -/
def execBbc (pos : Spec) (base : Spec) (displ : BitVec 8) (s : State) : Host.Outcome State Fault Refusal :=
  runInstr s (branchOnBit false none false pos base displ)

/-- BBSS (R552). -/
def execBbss (pos : Spec) (base : Spec) (displ : BitVec 8) (s : State) : Host.Outcome State Fault Refusal :=
  runInstr s (branchOnBit true (some true) false pos base displ)

/-- BBCS (R553). -/
def execBbcs (pos : Spec) (base : Spec) (displ : BitVec 8) (s : State) : Host.Outcome State Fault Refusal :=
  runInstr s (branchOnBit false (some true) false pos base displ)

/-- BBSC (R554). -/
def execBbsc (pos : Spec) (base : Spec) (displ : BitVec 8) (s : State) : Host.Outcome State Fault Refusal :=
  runInstr s (branchOnBit true (some false) false pos base displ)

/-- BBCC (R555). -/
def execBbcc (pos : Spec) (base : Spec) (displ : BitVec 8) (s : State) : Host.Outcome State Fault Refusal :=
  runInstr s (branchOnBit false (some false) false pos base displ)

/-- BBSSI (R556). -/
def execBbssi (pos : Spec) (base : Spec) (displ : BitVec 8) (s : State) : Host.Outcome State Fault Refusal :=
  runInstr s (branchOnBit true (some true) true pos base displ)

/-- BBCCI (R557). -/
def execBbcci (pos : Spec) (base : Spec) (displ : BitVec 8) (s : State) : Host.Outcome State Fault Refusal :=
  runInstr s (branchOnBit false (some false) true pos base displ)

end Sys2Proof.Machine
end

