-- ==== Sys2Proof/Machine/Float.lean ====
section
/-! DEFINITION. Floating point instructions (44_float.md). -/
namespace Sys2Proof.Machine
open Sys2Proof

/-- The floating type of w bits. -/
def floatType (w : Nat) : DType := if w = 32 then .f else .d

/-- The datum of a floating read operand, never in I/O space (R600), not yet checked: reserved operands are looked for once all
specifiers have been evaluated (60_exceptions.md R1231; log 47). -/
def rawFloat (w : Nat) (sp : Spec) : M (BitVec w) := do
  let l ← locate .read (floatType w) false sp
  loadLoc w false false false l

/-- The place of a floating write operand. -/
def writeFloat (w : Nat) (sp : Spec) : M Loc := locate .write (floatType w) false sp

/-- The place and the datum of a floating modify operand, not yet checked. -/
def rawModifyFloat (w : Nat) (sp : Spec) : M (Loc × BitVec w) := do
  let l ← locate .modify (floatType w) false sp
  let x ← loadLoc w false false true l
  pure (l, x)

/-- A floating result stored. -/
def storeFloat {w : Nat} (l : Loc) (x : BitVec w) : M Unit := storeLoc false false l x

/-- FCC: N and Z of a stored floating result, V cleared, C as given (R602). -/
def floatCC {w : Nat} (x : BitVec w) (c : Bool) : CC := ⟨fSign x, fIsZero x, false, c⟩

/-- The condition codes and the trap of a stored floating result (R602): drawn on overflow and divide by zero, which
always trap; underflow traps when FU is set. -/
def finishFloat {w : Nat} (x : FResult w) (c : Bool) : M Completion :=
  match x.event with
  | .overflow => do
    let f ← drawCC
    putCC f
    pure (.trap trapFloatOverflow)
  | .divZero => do
    let f ← drawCC
    putCC f
    pure (.trap trapDivZero)
  | .underflow => do
    putCC (floatCC x.r c)
    let p ← getPsl
    pure (if p.getLsbD pslFU then .trap trapFloatUnderflow else .done)
  | .none => finish (floatCC x.r c)

/-! ### Arithmetic -/

/-- a.r, b.m: f takes the values of the first operand and of the second (R604). -/
def float2 (w : Nat) (f : FVal → FVal → FResult w) (a b : Spec) : M Completion := do
  let x ← rawFloat w a
  let (l, y) ← rawModifyFloat w b
  checkFloat x
  checkFloat y
  let r := f (fVal x) (fVal y)
  storeFloat l r.r
  finishFloat r false

/-- a.r, b.r, dst.w (R605). -/
def float3 (w : Nat) (f : FVal → FVal → FResult w) (a b dst : Spec) : M Completion := do
  let x ← rawFloat w a
  let y ← rawFloat w b
  let l ← writeFloat w dst
  checkFloat x
  checkFloat y
  let r := f (fVal x) (fVal y)
  storeFloat l r.r
  finishFloat r false

/-- ADDF2 (R604). -/
def execAddf2 (add : Spec) (sum : Spec) (s : State) : Host.Outcome State Fault Refusal :=
  runInstr s (float2 32 (fun a b => fStore 32 (b.add a)) add sum)

/-- ADDF3 (R605). -/
def execAddf3 (add1 : Spec) (add2 : Spec) (sum : Spec) (s : State) : Host.Outcome State Fault Refusal :=
  runInstr s (float3 32 (fun a b => fStore 32 (b.add a)) add1 add2 sum)

/-- ADDD2 (R606). -/
def execAddd2 (add : Spec) (sum : Spec) (s : State) : Host.Outcome State Fault Refusal :=
  runInstr s (float2 64 (fun a b => fStore 64 (b.add a)) add sum)

/-- ADDD3 (R607). -/
def execAddd3 (add1 : Spec) (add2 : Spec) (sum : Spec) (s : State) : Host.Outcome State Fault Refusal :=
  runInstr s (float3 64 (fun a b => fStore 64 (b.add a)) add1 add2 sum)

/-- SUBF2 (R608). -/
def execSubf2 (sub : Spec) (dif : Spec) (s : State) : Host.Outcome State Fault Refusal :=
  runInstr s (float2 32 (fun a b => fStore 32 (b.sub a)) sub dif)

/-- SUBF3 (R609). -/
def execSubf3 (sub : Spec) (minuend : Spec) (dif : Spec) (s : State) : Host.Outcome State Fault Refusal :=
  runInstr s (float3 32 (fun a b => fStore 32 (b.sub a)) sub minuend dif)

/-- SUBD2 (R610). -/
def execSubd2 (sub : Spec) (dif : Spec) (s : State) : Host.Outcome State Fault Refusal :=
  runInstr s (float2 64 (fun a b => fStore 64 (b.sub a)) sub dif)

/-- SUBD3 (R611). -/
def execSubd3 (sub : Spec) (minuend : Spec) (dif : Spec) (s : State) : Host.Outcome State Fault Refusal :=
  runInstr s (float3 64 (fun a b => fStore 64 (b.sub a)) sub minuend dif)

/-- MULF2 (R612). -/
def execMulf2 (mulr : Spec) (prod : Spec) (s : State) : Host.Outcome State Fault Refusal :=
  runInstr s (float2 32 (fun a b => fStore 32 (b.mul a)) mulr prod)

/-- MULF3 (R613). -/
def execMulf3 (mulr : Spec) (muld : Spec) (prod : Spec) (s : State) : Host.Outcome State Fault Refusal :=
  runInstr s (float3 32 (fun a b => fStore 32 (b.mul a)) mulr muld prod)

/-- MULD2 (R614). -/
def execMuld2 (mulr : Spec) (prod : Spec) (s : State) : Host.Outcome State Fault Refusal :=
  runInstr s (float2 64 (fun a b => fStore 64 (b.mul a)) mulr prod)

/-- MULD3 (R615). -/
def execMuld3 (mulr : Spec) (muld : Spec) (prod : Spec) (s : State) : Host.Outcome State Fault Refusal :=
  runInstr s (float3 64 (fun a b => fStore 64 (b.mul a)) mulr muld prod)

/-- DIVF2 (R616). -/
def execDivf2 (divr : Spec) (quo : Spec) (s : State) : Host.Outcome State Fault Refusal :=
  runInstr s (float2 32 (fun a b => fQuotient 32 b a) divr quo)

/-- DIVF3 (R617). -/
def execDivf3 (divr : Spec) (divd : Spec) (quo : Spec) (s : State) : Host.Outcome State Fault Refusal :=
  runInstr s (float3 32 (fun a b => fQuotient 32 b a) divr divd quo)

/-- DIVD2 (R618). -/
def execDivd2 (divr : Spec) (quo : Spec) (s : State) : Host.Outcome State Fault Refusal :=
  runInstr s (float2 64 (fun a b => fQuotient 64 b a) divr quo)

/-- DIVD3 (R619). -/
def execDivd3 (divr : Spec) (divd : Spec) (quo : Spec) (s : State) : Host.Outcome State Fault Refusal :=
  runInstr s (float3 64 (fun a b => fQuotient 64 b a) divr divd quo)

/-! ### Move, negate, compare, test -/

/-- MOVF and MOVD (R620): the bits unchanged, C kept. -/
def moveFloat (w : Nat) (src dst : Spec) : M Completion := do
  let x ← rawFloat w src
  let l ← writeFloat w dst
  checkFloat x
  storeFloat l x
  let old ← getCC
  finish (floatCC x old.c)

/-- The negated datum; the clean zero for a zero (R622). -/
def negateFloat {w : Nat} (x : BitVec w) : BitVec w := if fIsZero x then 0 else setBit x 15 (!fSign x)

/-- MNEGF and MNEGD (R622). -/
def moveNegatedFloat (w : Nat) (src dst : Spec) : M Completion := do
  let x ← rawFloat w src
  let l ← writeFloat w dst
  checkFloat x
  let r := negateFloat x
  storeFloat l r
  finish (floatCC r false)

/-- CMPF and CMPD (R624). -/
def compareFloat (w : Nat) (src1 src2 : Spec) : M Completion := do
  let x ← rawFloat w src1
  let y ← rawFloat w src2
  checkFloat x
  checkFloat y
  finish ⟨(fVal x).lt (fVal y), (fVal x).eq (fVal y), false, false⟩

/-- TSTF and TSTD (R626). -/
def testFloat (w : Nat) (src : Spec) : M Completion := do
  let x ← rawFloat w src
  checkFloat x
  finish ⟨decide ((fVal x).m < 0), fIsZero x, false, false⟩

/-- MOVF (R620). -/
def execMovf (src : Spec) (dst : Spec) (s : State) : Host.Outcome State Fault Refusal :=
  runInstr s (moveFloat 32 src dst)

/-- MNEGF (R622). -/
def execMnegf (src : Spec) (dst : Spec) (s : State) : Host.Outcome State Fault Refusal :=
  runInstr s (moveNegatedFloat 32 src dst)

/-- CMPF (R624). -/
def execCmpf (src1 : Spec) (src2 : Spec) (s : State) : Host.Outcome State Fault Refusal :=
  runInstr s (compareFloat 32 src1 src2)

/-- TSTF (R626). -/
def execTstf (src : Spec) (s : State) : Host.Outcome State Fault Refusal :=
  runInstr s (testFloat 32 src)

/-- MOVD (R621). -/
def execMovd (src : Spec) (dst : Spec) (s : State) : Host.Outcome State Fault Refusal :=
  runInstr s (moveFloat 64 src dst)

/-- MNEGD (R623). -/
def execMnegd (src : Spec) (dst : Spec) (s : State) : Host.Outcome State Fault Refusal :=
  runInstr s (moveNegatedFloat 64 src dst)

/-- CMPD (R625). -/
def execCmpd (src1 : Spec) (src2 : Spec) (s : State) : Host.Outcome State Fault Refusal :=
  runInstr s (compareFloat 64 src1 src2)

/-- TSTD (R627). -/
def execTstd (src : Spec) (s : State) : Host.Outcome State Fault Refusal :=
  runInstr s (testFloat 64 src)

/-! ### Conversions -/

/-- src.r floating, dst.w integer of v bits: the integer g takes from the value (R628, R634). -/
def floatToInt (w v : Nat) (g : FVal → Int) (src dst : Spec) : M Completion := do
  let x ← rawFloat w src
  let l ← writeOp v dst false
  checkFloat x
  let i := g (fVal x)
  let r : IntResult v := cleared (BitVec.ofInt v i) (outOfRange v i)
  storeOp l r.r false
  r.finish

/-- src.r integer of v bits, dst.w floating (R636). -/
def intToFloat (v w : Nat) (src dst : Spec) : M Completion := do
  let a ← readOp v src false
  let l ← writeFloat w dst
  let r := fStore w ⟨a.toInt, 0⟩
  storeFloat l r.r
  finishFloat r false

/-- CVTFB (R628). -/
def execCvtfb (src : Spec) (dst : Spec) (s : State) : Host.Outcome State Fault Refusal :=
  runInstr s (floatToInt 32 8 FVal.trunc src dst)

/-- CVTFW (R630). -/
def execCvtfw (src : Spec) (dst : Spec) (s : State) : Host.Outcome State Fault Refusal :=
  runInstr s (floatToInt 32 16 FVal.trunc src dst)

/-- CVTFL (R632). -/
def execCvtfl (src : Spec) (dst : Spec) (s : State) : Host.Outcome State Fault Refusal :=
  runInstr s (floatToInt 32 32 FVal.trunc src dst)

/-- CVTRFL (R634). -/
def execCvtrfl (src : Spec) (dst : Spec) (s : State) : Host.Outcome State Fault Refusal :=
  runInstr s (floatToInt 32 32 FVal.round src dst)

/-- CVTBF (R636). -/
def execCvtbf (src : Spec) (dst : Spec) (s : State) : Host.Outcome State Fault Refusal :=
  runInstr s (intToFloat 8 32 src dst)

/-- CVTWF (R638). -/
def execCvtwf (src : Spec) (dst : Spec) (s : State) : Host.Outcome State Fault Refusal :=
  runInstr s (intToFloat 16 32 src dst)

/-- CVTLF (R640). -/
def execCvtlf (src : Spec) (dst : Spec) (s : State) : Host.Outcome State Fault Refusal :=
  runInstr s (intToFloat 32 32 src dst)

/-- CVTDB (R629). -/
def execCvtdb (src : Spec) (dst : Spec) (s : State) : Host.Outcome State Fault Refusal :=
  runInstr s (floatToInt 64 8 FVal.trunc src dst)

/-- CVTDW (R631). -/
def execCvtdw (src : Spec) (dst : Spec) (s : State) : Host.Outcome State Fault Refusal :=
  runInstr s (floatToInt 64 16 FVal.trunc src dst)

/-- CVTDL (R633). -/
def execCvtdl (src : Spec) (dst : Spec) (s : State) : Host.Outcome State Fault Refusal :=
  runInstr s (floatToInt 64 32 FVal.trunc src dst)

/-- CVTRDL (R635). -/
def execCvtrdl (src : Spec) (dst : Spec) (s : State) : Host.Outcome State Fault Refusal :=
  runInstr s (floatToInt 64 32 FVal.round src dst)

/-- CVTBD (R637). -/
def execCvtbd (src : Spec) (dst : Spec) (s : State) : Host.Outcome State Fault Refusal :=
  runInstr s (intToFloat 8 64 src dst)

/-- CVTWD (R639). -/
def execCvtwd (src : Spec) (dst : Spec) (s : State) : Host.Outcome State Fault Refusal :=
  runInstr s (intToFloat 16 64 src dst)

/-- CVTLD (R641). -/
def execCvtld (src : Spec) (dst : Spec) (s : State) : Host.Outcome State Fault Refusal :=
  runInstr s (intToFloat 32 64 src dst)

/-- CVTFD (R642). -/
def execCvtfd (src : Spec) (dst : Spec) (s : State) : Host.Outcome State Fault Refusal :=
  runInstr s do
    let x ← rawFloat 32 src
    let l ← writeFloat 64 dst
    checkFloat x
    let r : BitVec 64 := if fIsZero x then 0 else x.setWidth 64
    storeFloat l r
    finish (floatCC r false)

/-- CVTDF (R643). -/
def execCvtdf (src : Spec) (dst : Spec) (s : State) : Host.Outcome State Fault Refusal :=
  runInstr s do
    let x ← rawFloat 64 src
    let l ← writeFloat 32 dst
    checkFloat x
    let r := fStore 32 (fVal x)
    storeFloat l r.r
    finishFloat r false

/-! ### Extended modulus, polynomial, loop -/

/-- The end of EMODx (R644): integer overflow first, then underflow of the fraction. -/
def finishEmod {w : Nat} (f : FResult w) (v : Bool) : M Completion := do
  putCC ⟨fSign f.r, fIsZero f.r, v, false⟩
  let p ← getPsl
  pure (if v && p.getLsbD pslIV then .trap trapIntOverflow
    else if f.event == .underflow && p.getLsbD pslFU then .trap trapFloatUnderflow
    else .done)

/-- mulr.r, mulrx.rb, muld.r, int.wl, fract.w (R644): two destinations, so no operand in I/O space. -/
def extendedModulus (w : Nat) (mulr mulrx muld int fract : Spec) : M Completion := do
  let a ← rawFloat w mulr
  let ext ← readInt 8 false mulrx
  let b ← rawFloat w muld
  let li ← locate .write .l false int
  let lf ← writeFloat w fract
  checkFloat a
  checkFloat b
  let p := (fExtend a ext).mul (fVal b)
  let i := p.trunc
  let f := fStore w (p.sub ⟨i, 0⟩)
  checkStore false 32 li
  checkStore false w lf
  storeLoc false false li (BitVec.ofInt 32 i)
  storeFloat lf f.r
  finishEmod f (outOfRange 32 i)

/-- A polynomial's running result and whether some step underflowed. -/
structure PolyState (w : Nat) where
  r : FResult w
  underflowed : Bool

/-- The steps left, each reading its coefficient (R646): the product truncated to w - 1 bits, the sum rounded; an overflow
stops them. -/
def polySteps (w : Nat) (arg : FVal) : Nat → Word → PolyState w → M (PolyState w)
  | 0, _, st => pure st
  | n + 1, a, st =>
    if st.r.event = .overflow then pure st
    else do
      let c ← BitVec.ofNat w <$> memReadN a (w / 8)
      checkFloat c
      let r := fStore w ((((fVal st.r.r).mul arg).truncBits (w - 1)).add (fVal c))
      polySteps w arg n (a + BitVec.ofNat 32 (w / 8)) ⟨r, st.underflowed || r.event == .underflow⟩

/-- arg.r, degree.rw, tbladdr.ab: the result, and the address after the table (R646). The degree is checked, then the argument, then
each coefficient as it is read. -/
def polynomial (w : Nat) (arg degree tbladdr : Spec) : M (PolyState w × Word) := do
  let x ← rawFloat w arg
  let d ← readInt 16 false degree
  let t ← addressOp .b false tbladdr
  if 31 < d.toNat then reservedOperand
  else do
    checkFloat x
    let c ← BitVec.ofNat w <$> memReadN t (w / 8)
    checkFloat c
    let st ← polySteps w (fVal x) d.toNat (t + BitVec.ofNat 32 (w / 8)) ⟨⟨c, .none⟩, false⟩
    pure (st, t + BitVec.ofNat 32 (w / 8 * (d.toNat + 1)))

/-- The end of POLYx: an underflow of any step counts (R646). -/
def PolyState.finish {w : Nat} (st : PolyState w) : M Completion :=
  finishFloat (if st.r.event = .none ∧ st.underflowed then ⟨st.r.r, .underflow⟩ else st.r) false

/-- EMODF (R644). -/
def execEmodf (mulr : Spec) (mulrx : Spec) (muld : Spec) (int : Spec) (fract : Spec) (s : State) : Host.Outcome State Fault Refusal :=
  runInstr s (extendedModulus 32 mulr mulrx muld int fract)

/-- EMODD (R645). -/
def execEmodd (mulr : Spec) (mulrx : Spec) (muld : Spec) (int : Spec) (fract : Spec) (s : State) : Host.Outcome State Fault Refusal :=
  runInstr s (extendedModulus 64 mulr mulrx muld int fract)

/-- POLYF (R647). -/
def execPolyf (arg : Spec) (degree : Spec) (tbladdr : Spec) (s : State) : Host.Outcome State Fault Refusal :=
  runInstr s do
    let (st, a) ← polynomial 32 arg degree tbladdr
    putReg 0 st.r.r
    putReg 1 0
    putReg 2 0
    putReg 3 a
    st.finish

/-- POLYD (R648). -/
def execPolyd (arg : Spec) (degree : Spec) (tbladdr : Spec) (s : State) : Host.Outcome State Fault Refusal :=
  runInstr s do
    let (st, a) ← polynomial 64 arg degree tbladdr
    putReg 0 (loLong st.r.r)
    putReg 1 (hiLong st.r.r)
    putReg 2 0
    putReg 3 a
    putReg 4 0
    putReg 5 0
    st.finish

/-- The end of a floating loop: as R602, but that C stays as it was whatever the result (R649). -/
def finishFloatLoop {w : Nat} (x : FResult w) : M Completion := do
  let old ← getCC
  let how ← finishFloat x old.c
  let f ← getCC
  putCC { f with c := old.c }
  pure how

/-- limit.r, add.r, index.m, displ.bw (R649); the trap follows the branch decision, and an overflow does not branch. -/
def addCompareBranchFloat (w : Nat) (limit add idx : Spec) (displ : BitVec 16) : M Completion := do
  let lim ← rawFloat w limit
  let a ← rawFloat w add
  let (l, i) ← rawModifyFloat w idx
  let target ← branchTargetW displ
  checkFloat lim
  checkFloat a
  checkFloat i
  let x := fStore w ((fVal i).add (fVal a))
  let r := fVal x.r
  let within := if (fVal a).m < 0 then !r.lt (fVal lim) else !(fVal lim).lt r
  storeFloat l x.r
  branchIf (x.event != .overflow && within) target
  finishFloatLoop x

/-- ACBF (R649). -/
def execAcbf (limit : Spec) (add : Spec) (idx : Spec) (displ : BitVec 16) (s : State) : Host.Outcome State Fault Refusal :=
  runInstr s (addCompareBranchFloat 32 limit add idx displ)

/-- ACBD (R650). -/
def execAcbd (limit : Spec) (add : Spec) (idx : Spec) (displ : BitVec 16) (s : State) : Host.Outcome State Fault Refusal :=
  runInstr s (addCompareBranchFloat 64 limit add idx displ)

end Sys2Proof.Machine
end

