-- ==== Sys2Proof/Machine/Queue.lean ====
section
/-! DEFINITION. Queues, register sets, the PSW, INDEX (43_field_queue_misc.md R558 to R566). -/
namespace Sys2Proof.Machine
open Sys2Proof

/-- The condition codes of a queue instruction: successor and predecessor compared (R559, R560). -/
def queueCC (s p : Word) (v : Bool) : CC := ⟨s.slt p, s == p, v, s.ult p⟩

/-- INSQUE (R559). DESIGN CHOICE (log 29): it waits for the interlock whatever the alignment of its longwords, where R558 and D5
promise none to unaligned ones. -/
def execInsque (entry : Spec) (pred : Spec) (s : State) : Host.Outcome State Fault Refusal :=
  runInstr s do
    let e ← addressOp .b false entry
    let p ← addressOp .b false pred
    awaitInterlock
    let succ ← memReadLong p
    probeWrite false e 8
    probeWrite false (succ + 4) 4
    probeWrite false p 4
    memWriteLong e succ
    memWriteLong (e + 4) p
    memWriteLong (succ + 4) e
    memWriteLong p e
    finish (queueCC succ p false)

/-- REMQUE (R560), which waits as INSQUE does (DESIGN CHOICE, log 29). -/
def execRemque (entry : Spec) (addr : Spec) (s : State) : Host.Outcome State Fault Refusal :=
  runInstr s do
    let e ← addressOp .b false entry
    let l ← writeOp 32 addr
    awaitInterlock
    let succ ← memReadLong e
    let p ← memReadLong (e + 4)
    probeWrite false p 4
    probeWrite false (succ + 4) 4
    checkStore true 32 l
    memWriteLong p succ
    memWriteLong (succ + 4) p
    storeOp l e
    finish (queueCC succ p (e == p))

/-- R14 to R0. -/
def setRegs : List Reg := [14, 13, 12, 11, 10, 9, 8, 7, 6, 5, 4, 3, 2, 1, 0]

/-- PUSHR (R561): every push is checked before the first is made (70_reset_and_hazards.md R1285). DESIGN CHOICE (log 31): where the
mask's specifier steps SP and bit 14 is set, the stepped SP is pushed. -/
def execPushr (mask : Spec) (s : State) : Host.Outcome State Fault Refusal :=
  runInstr s do
    let m ← readOp 16 mask false
    let sp ← getReg rSP
    checkPushes (maskCount m setRegs) sp
    pushRegs m setRegs
    pure .done

/-- POPR (R562). -/
def execPopr (mask : Spec) (s : State) : Host.Outcome State Fault Refusal :=
  runInstr s do
    let m ← readOp 16 mask false
    popRegs m setRegs.reverse
    pure .done

/-- MOVPSL (R563). -/
def execMovpsl (dst : Spec) (s : State) : Host.Outcome State Fault Refusal :=
  runInstr s do
    let l ← writeOp 32 dst
    let p ← getPsl
    storeOp l p
    pure .done

/-- mask.rw: the low byte of the PSL changed by f; mask bits 15:8 must be 0 (R564). -/
def changePsw (f : Byte → Byte → Byte) (mask : Spec) : M Completion := do
  let m ← readOp 16 mask
  if m.extractLsb' 8 8 ≠ (0 : Byte) then reservedOperand
  else do
    let p ← getPsl
    putPsl (setField p 0 (f (p.setWidth 8) (m.setWidth 8)))
    pure .done

/-- BISPSW (R564). -/
def execBispsw (mask : Spec) (s : State) : Host.Outcome State Fault Refusal :=
  runInstr s (changePsw (fun p m => p ||| m) mask)

/-- BICPSW (R565). -/
def execBicpsw (mask : Spec) (s : State) : Host.Outcome State Fault Refusal :=
  runInstr s (changePsw (fun p m => p &&& ~~~m) mask)

/-- INDEX (R566). -/
def execIndex (subscript : Spec) (low : Spec) (high : Spec) (size : Spec) (indexin : Spec) (indexout : Spec) (s : State) : Host.Outcome State Fault Refusal :=
  runInstr s do
    let sub ← readOp 32 subscript false
    let lo ← readOp 32 low false
    let hi ← readOp 32 high false
    let sz ← readOp 32 size false
    let inp ← readOp 32 indexin false
    let l ← writeOp 32 indexout false
    let r := (inp + sub) * sz
    storeOp l r false
    putCC (ccOf r false false)
    pure (if sub.slt lo || hi.slt sub then .trap trapSubscript else .done)

end Sys2Proof.Machine
end

