-- ==== Sys2Proof/Machine/System.lean ====
section
/-! DEFINITION. Privileged and system instructions, change mode, probes, reserved opcodes (40_privileged.md; 30_encoding.md
R263). -/
namespace Sys2Proof.Machine
open Sys2Proof

/-- Reserved instruction fault unless the mode is kernel (40_privileged.md R333). -/
def needKernel : M Unit := do
  let s ← get
  if s.cur = 0 then pure () else reservedInstruction

/-! ### Halt, processor registers -/

/-- HALT (R332). -/
def execHalt (s : State) : Host.Outcome State Fault Refusal :=
  runInstr s do
    needKernel
    raise (.halt .haltInstruction)

/-- The processor registers that hold the memory map: P0BR, P0LR, P1BR, P1LR, SBR, SLR and MAPEN (70_reset_and_hazards.md
R1284). -/
def mapRegisters : List Nat := [8, 9, 10, 11, 12, 13, 56]

/-- MTPR (R330). -/
def execMtpr (src : Spec) (regnumber : Spec) (s : State) : Host.Outcome State Fault Refusal :=
  runInstr s do
    let v ← readOp 32 src
    let n ← readOp 32 regnumber
    needKernel
    if mapRegisters.contains n.toNat then keepPrefetched else pure ()
    writeIpr n.toNat v
    let old ← getCC
    finish (ccOf v false old.c)

/-- The check on the register number of MFPR, with nothing of the read done (R331). -/
def needReadable (n : Nat) : M Unit := do
  let s ← get
  match readIpr n s with
  | .ok _ _ => pure ()
  | .error t _ => raise t

/-- MFPR (R331): the register is checked before the destination is. -/
def execMfpr (regnumber : Spec) (dst : Spec) (s : State) : Host.Outcome State Fault Refusal :=
  runInstr s do
    let n ← readOp 32 regnumber
    let l ← writeOp 32 dst
    needKernel
    needReadable n.toNat
    checkStore true 32 l
    let v ← readIpr n.toNat
    storeOp l v
    let old ← getCC
    finish (ccOf v false old.c)

/-! ### Process context -/

/-- Reserved operand abort unless a check on the process control block holds (R320). -/
def contextCheck (ok : Bool) : M Unit := if ok then pure () else raise (.abort 0x18 [])

/-- PCBB, which may not lie in I/O space (20_memory.md R230, D19). -/
def getPcbb : M Nat := do
  let r ← getIpr
  if r.pcbb.toNat < ioBase then pure r.pcbb.toNat else raise (.refuse .ioSpaceReference)

/-- SetSP in a computation. -/
def putSp (i : Fin 5) (v : Word) : M Unit := modify fun s => s.setSp i v

/-- Stack pointers i of the list loaded from the process control block (R320). -/
def loadStacks (pcb : Nat) : List (Fin 5) → M Unit
  | [] => pure ()
  | i :: t => do
    let v ← physReadLong false (pcb + 4 * i.val)
    putSp i v
    loadStacks pcb t

/-- Registers loaded from the process control block, Rn at offset 16 + 4n (R320; 10_state.md R110). -/
def loadContextRegs (pcb : Nat) : List Reg → M Unit
  | [] => pure ()
  | n :: t => do
    let v ← physReadLong false (pcb + 16 + 4 * n.val)
    putReg n v
    loadContextRegs pcb t

/-- R0 to R13: AP and FP follow R11 in the process control block. -/
def contextRegs : List Reg := [0, 1, 2, 3, 4, 5, 6, 7, 8, 9, 10, 11, 12, 13]

/-- The process stack pointers KSP to USP. -/
def processStacks : List (Fin 5) := [0, 1, 2, 3]

/-- The memory map, ASTLVL and PME loaded from the process control block, each checked (R320). -/
def loadMap (pcb : Nat) : M Unit := do
  let t ← physReadLong false (pcb + 80)
  contextCheck (validP0br t)
  modifyIpr fun r => { r with p0br := t }
  let u ← physReadLong false (pcb + 84)
  contextCheck (u.extractLsb' 27 5 == (0 : BitVec 5))
  contextCheck (u.extractLsb' 22 2 == (0 : BitVec 2))
  modifyIpr fun r => { r with p0lr := u.setWidth 22 }
  contextCheck (decide ((u.extractLsb' 24 3).toNat < 5))
  modifyIpr fun r => { r with astlvl := u.extractLsb' 24 3 }
  let t ← physReadLong false (pcb + 88)
  contextCheck (validP1br t)
  modifyIpr fun r => { r with p1br := t }
  let u ← physReadLong false (pcb + 92)
  contextCheck (u.extractLsb' 22 9 == (0 : BitVec 9))
  modifyIpr fun r => { r with p1lr := u.setWidth 22, pme := u.getLsbD 31 }

/-- IS set or cleared, R14 exchanged with the stack pointer of the new stack (R320, R321). -/
def State.setIntStack (s : State) (on : Bool) : State :=
  let i : Fin 5 := if on then 4 else 0
  { s.switchStack i with psl := setBit s.psl pslIS on }

/-- The process entries of the translation buffer removed (R320). -/
def dropProcessTb : M Unit := modify fun s =>
  { s with tb := s.tb.filter fun e => e.vpn.getLsbD 22 }.noteChanges [.flushProcess]

/-- The process's memory map, ASTLVL and PME as in another state. -/
def Ipr.contextOf (r r0 : Ipr) : Ipr :=
  { r with p0br := r0.p0br, p0lr := r0.p0lr, p1br := r0.p1br, p1lr := r0.p1lr, astlvl := r0.astlvl, pme := r0.pme }

/-- A computation that loads the process's context, all of it as before when it ends in a fault or a machine check (D21, D27);
what an abort has loaded stays loaded (R320). -/
def restoringContext (m : M Unit) : M Unit := do
  let s ← get
  tryCatch m fun t =>
    match t with
    | .abort vec params => raise (.abort vec params)
    | t => do
      modifyIpr fun r => r.contextOf s.ipr
      dropProcessTb
      raise t

/-- The PSL and the PC of the process control block pushed on the new kernel stack, both pushes checked first (R320;
70_reset_and_hazards.md R1285). -/
def pushContext (pcb : Nat) : M Unit := do
  let sp ← getReg rSP
  checkPushes 2 sp
  let psl ← physReadLong false (pcb + 76)
  push psl
  let pc ← physReadLong false (pcb + 72)
  push pc

/-- LDPCTX (R320). -/
def execLdpctx (s : State) : Host.Outcome State Fault Refusal :=
  runInstr s do
    needKernel
    keepPrefetched
    dropProcessTb
    let pcb ← getPcbb
    restoringContext do
      loadStacks pcb processStacks
      loadContextRegs pcb contextRegs
      loadMap pcb
      modify fun s => if s.onIntStack then s.setIntStack false else s
      pushContext pcb
    pure .done

/-- Stack pointers stored in the process control block (R321). -/
def saveStacks (pcb : Nat) : List (Fin 5) → M Unit
  | [] => pure ()
  | i :: t => do
    let s ← get
    physWriteLong (pcb + 4 * i.val) (s.getSp i)
    saveStacks pcb t

/-- Registers stored in the process control block (R321). -/
def saveContextRegs (pcb : Nat) : List Reg → M Unit
  | [] => pure ()
  | n :: t => do
    let v ← getReg n
    physWriteLong (pcb + 16 + 4 * n.val) v
    saveContextRegs pcb t

/-- IPL raised to at least 1 (R321). -/
def iplAtLeastOne (psl : Word) : Word :=
  if psl.extractLsb' 16 5 = (0 : BitVec 5) then setField psl 16 (1 : BitVec 5) else psl

/-- SVPCTX (R321). -/
def execSvpctx (s : State) : Host.Outcome State Fault Refusal :=
  runInstr s do
    needKernel
    let pcb ← getPcbb
    saveStacks pcb processStacks
    saveContextRegs pcb contextRegs
    let pc ← pop
    physWriteLong (pcb + 72) pc
    let psl ← pop
    physWriteLong (pcb + 76) psl
    let now ← get
    if now.onIntStack then pure ()
    else
      physWriteLong pcb now.sp
      modify fun s => { s with psl := iplAtLeastOne s.psl }.setIntStack true
    pure .done

/-! ### Change mode -/

/-- CHMx to the opcode's mode om, by the shared initiation (R322): a halt on the interrupt stack; the new mode is the more
privileged of om and the current one; the three pushes are checked before the first is made (70_reset_and_hazards.md
R1285). -/
def changeMode (om : Mode) (code : Spec) : M Completion := do
  let c ← readOp 16 code
  let s ← get
  if s.onIntStack then raise (.halt .chmError)
  else do
    let nm := if om.ult s.cur then om else s.cur
    checkPushesIn nm true 3 (s.getSp (modeStack nm))
    initCore ⟨0x40 + 4 * om.toNat, [c.signExtend 32], s.pc, s.psl, none, some nm⟩
    pure .done

/-- CHMK (R323). -/
def execChmk (code : Spec) (s : State) : Host.Outcome State Fault Refusal :=
  runInstr s (changeMode 0 code)

/-- CHME (R324). -/
def execChme (code : Spec) (s : State) : Host.Outcome State Fault Refusal :=
  runInstr s (changeMode 1 code)

/-- CHMS (R325). -/
def execChms (code : Spec) (s : State) : Host.Outcome State Fault Refusal :=
  runInstr s (changeMode 2 code)

/-- CHMU (R326). -/
def execChmu (code : Spec) (s : State) : Host.Outcome State Fault Refusal :=
  runInstr s (changeMode 3 code)

/-! ### Probe -/

/-- mode.rb, len.rw, base.ab: the first and the last byte probed (R327). -/
def probeEnds (write : Bool) (mode len base : Spec) : M Completion := do
  let m ← readOp 8 mode
  let n ← readOp 16 len
  let a ← addressOp .b true base
  let s ← get
  let asked : Mode := m.setWidth 2
  let pm := if asked.ult s.prv then s.prv else asked
  let a1 ← probe true a write pm
  let a2 ← probe true (a + n.setWidth 32 - 1) write pm
  finish ⟨false, !(a1 && a2), false, false⟩

/-- PROBER (R327). -/
def execProber (mode : Spec) (len : Spec) (base : Spec) (s : State) : Host.Outcome State Fault Refusal :=
  runInstr s (probeEnds false mode len base)

/-- PROBEW (R328). -/
def execProbew (mode : Spec) (len : Spec) (base : Spec) (s : State) : Host.Outcome State Fault Refusal :=
  runInstr s (probeEnds true mode len base)

/-! ### Reserved opcodes -/

/-- XFC (R329). -/
def execXfc (s : State) : Host.Outcome State Fault Refusal :=
  runInstr s (raise (.fault 0x14 []))

/-- RESERVED_57 (R263). -/
def execReserved57 (s : State) : Host.Outcome State Fault Refusal :=
  runInstr s reservedInstruction

/-- RESERVED_59 (R263). -/
def execReserved59 (s : State) : Host.Outcome State Fault Refusal :=
  runInstr s reservedInstruction

/-- RESERVED_5A (R263). -/
def execReserved5a (s : State) : Host.Outcome State Fault Refusal :=
  runInstr s reservedInstruction

/-- RESERVED_5B (R263). -/
def execReserved5b (s : State) : Host.Outcome State Fault Refusal :=
  runInstr s reservedInstruction

/-- RESERVED_5C (R263). -/
def execReserved5c (s : State) : Host.Outcome State Fault Refusal :=
  runInstr s reservedInstruction

/-- RESERVED_5D (R263). -/
def execReserved5d (s : State) : Host.Outcome State Fault Refusal :=
  runInstr s reservedInstruction

/-- RESERVED_5E (R263). -/
def execReserved5e (s : State) : Host.Outcome State Fault Refusal :=
  runInstr s reservedInstruction

/-- RESERVED_5F (R263). -/
def execReserved5f (s : State) : Host.Outcome State Fault Refusal :=
  runInstr s reservedInstruction

/-- RESERVED_77 (R263). -/
def execReserved77 (s : State) : Host.Outcome State Fault Refusal :=
  runInstr s reservedInstruction

/-- ESCD (R263). -/
def execEscd (s : State) : Host.Outcome State Fault Refusal :=
  runInstr s reservedInstruction

/-- ESCE (R263). -/
def execEsce (s : State) : Host.Outcome State Fault Refusal :=
  runInstr s reservedInstruction

/-- ESCF (R263). -/
def execEscf (s : State) : Host.Outcome State Fault Refusal :=
  runInstr s reservedInstruction

end Sys2Proof.Machine
end

