-- ==== Sys2Proof/Machine/Step.lean ====
section
/-! DEFINITION. One step of the machine: the CPU's, or the turn of another agent (00_scope.md R9; 60_exceptions.md R1232). -/
namespace Sys2Proof.Machine
open Sys2Proof

/-- Fetch, decode and execute one instruction (R1232 step 5). -/
def instrStep (s : State) : Host.Outcome State Fault Refusal :=
  if s.pslBit pslCM then .refused .compatibilityMode
  else
    match fetchInstr s with
    | .error t s' => endInstr s s' t
    | .ok none _ => .fault .malformedInstruction
    | .ok (some i) s' => exec i s'

/-- The CPU's step (R1232). A halted CPU takes no transition, nor does one whose clock the console has stopped
(62_console.md R752). DESIGN CHOICE (log 32): a step in which an interlocked instruction only waits for the SBI interlock is one of the
steps of NEXT. -/
def cpuStep (s : State) : Host.Outcome State Fault Refusal :=
  if s.run.halted || s.console.clockStopped then .next s
  else if s.haltDue then .next s.consoleHalt
  else
    match s.pendingInterrupt with
    | some (level, src) => takeInterrupt s.countStep level src
    | none => if s.pslBit pslTP then takeTrace s.countStep else instrStep s.countStep.startTrace

/-- One step: the next turn of the agenda, the CPU's when it is empty. -/
def step (s : State) : Host.Outcome State Fault Refusal :=
  match s.agenda with
  | [] => cpuStep s
  | .cpu :: rest => cpuStep { s with agenda := rest }
  | t :: rest => agentStep { s with agenda := rest } t

/-- The state whose very next step fetches and runs the instruction whose low-order bits are w, stored at the physical
address of PC, the array being without errors; it stands for the console's LOAD and START (70_reset_and_hazards.md R1275; log
5). -/
def State.withFetchWord (s : State) (nbits w : Nat) : State :=
  let s := storeBytes { s with errs := { s.errs with memory := [] } } (unmappedPa s.pc) (tableBytes (w % 2 ^ nbits))
  { s with
    run := { s.run with halted := false, haltReq := false, stepsLeft := none }, agenda := []
    console := { s.console with stepMode := .none }, stale := [], prefetched := [] }

end Sys2Proof.Machine
end

