-- ==== Sys2Proof/Safety.lean ====
section
/-! DEFINITION. What counts as a safe run, and the terms the claims are stated in. -/
namespace Sys2Proof
open Sys2Proof.Machine

/-- k steps from s end in no fault and no refusal of the model. -/
def safeFor (k : Nat) (s : State) : Bool :=
  match core.run k s with
  | .next _ => true
  | _ => false

/-- The registers a base specifier steps (30_encoding.md R255 to R257). -/
def BaseSpec.stepped : BaseSpec → List Reg
  | .autoDec n => [n]
  | .autoInc n => [n]
  | .autoIncDef n => [n]
  | _ => []

/-- The registers a specifier steps. -/
def Spec.stepped : Spec → List Reg
  | .base b => b.stepped
  | .index _ b => b.stepped
  | _ => []

namespace Machine

/-- The state in which an instruction's first operand is evaluated: PC past the opcode byte (30_encoding.md R243). -/
def State.opened (s : State) : State := s.setPc (s.pc + 1)

/-- The registers a result of w bits changes at a place (10_state.md R40). -/
def Loc.regs (w : Nat) : Loc → List Reg
  | .reg n => if w ≤ 32 then [n] else [n, n + 1]
  | _ => []

/-- The place is in memory. -/
def Loc.writes : Loc → Bool
  | .mem _ => true
  | _ => false

/-- What t leaves of s as it was. The registers of the list may differ. io: a device may have been referenced; wr: memory
may have been written. The translation buffer only gains entries, and keeps where each was read from; the record of what stores
may have changed in page tables only grows. Errors of main memory are corrected, and do not arise; where there are none, no
reference records one. -/
structure Kept (io wr : Bool) (regs : List Reg) (s t : State) : Prop where
  cfg : t.cfg = s.cfg
  psl : t.psl = s.psl
  spb : t.spb = s.spb
  ipr : t.ipr = s.ipr
  run : t.run = s.run
  console : t.console = s.console
  agenda : t.agenda = s.agenda
  reg : ∀ n, n ∉ regs → t.reg n = s.reg n
  memctls : (io && wr) = false → t.bus.memctls = s.bus.memctls
  bus : io = false → t.bus = s.bus ∧ t.outputs = s.outputs
  mem : wr = false → t.mem = s.mem ∧ t.stale = s.stale
  prefetched : t.prefetched = s.prefetched
  mapLog : (∃ l, t.mapLog = l ++ s.mapLog) ∧ (wr = false → t.mapLog = s.mapLog)
  tb : ∀ e ∈ s.tb, ∃ f ∈ t.tb, f.vpn = e.vpn ∧ f.at_ = e.at_ ∧ f.sys = e.sys
  wf : Memory.wf s.mem = true → Memory.wf t.mem = true
  memErrs : t.errs.memory ⊆ s.errs.memory
  errs : s.errs.memory = [] → t.errs.requests = s.errs.requests ∧ ((io && wr) = false → t.errs = s.errs)

/-- The translation buffer holds a PTE that was read from the longword at a physical address, or one whose page table page the
system PTE there maps. -/
def State.pteAt (s : State) (x : Nat) : Prop := ∃ e ∈ s.tb, e.at_ = x ∨ e.sys = some x

/-- The byte at a physical address reads as before, but that with memory management on bit 2 may have been set in it, the modify
bit, where it is the last byte of a PTE in use (20_memory.md R171, R186). -/
def SameByte (s t : State) (pa : Nat) : Prop :=
  t.memByte pa = s.memByte pa ∨
    (s.ipr.mapen = true ∧ 3 ≤ pa ∧ t.pteAt (pa - 3) ∧ ∃ b, s.memByte pa = some b ∧ t.memByte pa = some (b ||| 4))

/-- Every byte of main memory outside a list of physical addresses is the same byte. -/
def SameBytesBut (pas : List Nat) (s t : State) : Prop := ∀ pa, pa ∉ pas → SameByte s t pa

/-! ### Results of integer instructions -/

/-- N and Z of a stored result, with V and C given (41_integer.md R371). -/
def nz {w : Nat} (r : BitVec w) (v c : Bool) : CC := ⟨decide (r.toInt < 0), decide (r.toNat = 0), v, c⟩

/-- What an instruction with one result is to leave: the result, the condition codes, whether the divisor was zero. -/
structure Want (w : Nat) where
  r : BitVec w
  cc : CC
  divZero : Bool := false

/-- The arithmetic trap it ends in, if any: 2 on a zero divisor, 1 when V is set and IV enables the trap (41_integer.md
R372). -/
def Want.trap {w : Nat} (x : Want w) (iv : Bool) : Option Word :=
  if x.divZero then some 2 else if x.cc.v && iv then some 1 else none

/-- A value moved: V cleared, C as before (R373). -/
def wantMove {w : Nat} (r : BitVec w) (old : CC) : Want w := ⟨r, nz r false old.c, false⟩

/-- A zero-extended value (R388). -/
def wantZext {v : Nat} (w : Nat) (a : BitVec v) (old : CC) : Want w :=
  let r := BitVec.ofNat w a.toNat
  ⟨r, ⟨false, decide (r.toNat = 0), false, old.c⟩, false⟩

/-- An exact integer stored in w bits: V tells that it does not fit, C is cleared (R391, R393, R427). -/
def wantExact (w : Nat) (x : Int) : Want w :=
  let r := BitVec.ofInt w x
  ⟨r, nz r (decide (r.toInt ≠ x)) false, false⟩

/-- A negated value: C is set unless it is 0 (R382). -/
def wantNegate {w : Nat} (a : BitVec w) : Want w :=
  let r := BitVec.ofInt w (-a.toInt)
  ⟨r, nz r (decide (r.toInt ≠ -a.toInt)) (decide (r.toNat ≠ 0)), false⟩

/-- a plus b plus a carry: V tells that the signed sum does not fit, C that the unsigned one does not (R371). -/
def wantSum {w : Nat} (a b : BitVec w) (cin : Bool) : Want w :=
  let k := if cin then 1 else 0
  let r := BitVec.ofNat w (a.toNat + b.toNat + k)
  ⟨r, nz r (decide (r.toInt ≠ a.toInt + b.toInt + k)) (decide (2 ^ w ≤ a.toNat + b.toNat + k)), false⟩

/-- a less b less a borrow: C tells of a borrow (R371). -/
def wantDifference {w : Nat} (a b : BitVec w) (bin : Bool) : Want w :=
  let k := if bin then 1 else 0
  let r := BitVec.ofInt w (a.toInt - b.toInt - k)
  ⟨r, nz r (decide (r.toInt ≠ a.toInt - b.toInt - k)) (decide (a.toNat < b.toNat + k)), false⟩

/-- The dividend divided by the divisor, truncated toward zero; the dividend itself, with V set, on a zero divisor and on
overflow (R435). -/
def wantQuotient {w : Nat} (divisor dividend : BitVec w) : Want w :=
  if divisor.toNat = 0 then ⟨dividend, nz dividend true false, true⟩
  else
    let q := dividend.toInt.tdiv divisor.toInt
    let r := BitVec.ofInt w q
    if r.toInt = q then ⟨r, nz r false false, false⟩ else ⟨dividend, nz dividend true false, false⟩

/-- An arithmetic shift by a signed count: times a power of two for a positive one, floor-divided by one for a negative one
(R459). -/
def wantShift {w : Nat} (cnt : Byte) (a : BitVec w) : Want w :=
  if 0 ≤ cnt.toInt then wantExact w (a.toInt * 2 ^ cnt.toInt.toNat)
  else
    let r := BitVec.ofInt w (a.toInt / 2 ^ (-cnt.toInt).toNat)
    ⟨r, nz r false false, false⟩

/-- A longword rotated left by the count modulo 32 (R461). -/
def wantRotate (cnt : Byte) (a : Word) (old : CC) : Want 32 :=
  let k := cnt.toNat % 32
  wantMove (BitVec.ofNat 32 (a.toNat * 2 ^ k + a.toNat / 2 ^ (32 - k))) old

/-- A comparison: N signed, C unsigned (R397). -/
def wantCompare {w : Nat} (a b : BitVec w) : CC :=
  ⟨decide (a.toInt < b.toInt), decide (a.toNat = b.toNat), false, decide (a.toNat < b.toNat)⟩

/-! ### How an instruction completes -/

/-- What storing the w-bit value r at a place does: s is the state before the instruction, u the state in which it is
stored, t the state after. In memory its bytes stand at the physical addresses the place translates to, and every other
byte reads as in s; this is said of main memory that holds no error, and page tables in it, since a store in I/O space is a
transaction with a device. -/
def Stored {w : Nat} (l : Loc) (r : BitVec w) (s u t : State) : Prop :=
  match l with
  | .const _ => False
  | .reg n => t.regValue w n = r ∧ (w < 32 → t.reg n >>> w = u.reg n >>> w)
  | .mem ea => ∀ pas v, translateRange false ea (w / 8) true u.cur u = .ok pas v → touchesIo pas = false →
      Memory.wf s.mem = true → s.errs.memory = [] →
      pas.length = w / 8 ∧ (∀ i (h : i < pas.length), t.memByte pas[i] = some (byteOf r i)) ∧ SameBytesBut pas s t

/-- The bytes of a place of w bits are found, in m, through page tables in main memory. In a page table that registers of I/O space
hold, setting a modify bit is a transaction with a device. -/
def Loc.mapped (w : Nat) (m : State) : Loc → Prop
  | .mem ea => ∃ pas v, translateRange false ea (w / 8) true m.cur m = .ok pas v
  | _ => True

/-- The modify operand of w bits that a specifier names in s is found through page tables in main memory. Where an operand may not lie
in I/O space (io off), one that is read at all is. -/
def ModifyMapped (w : Nat) (io : Bool) (sp : Spec) (s : State) : Prop :=
  ∃ l m, locate .modify (intType w) io sp s = .ok l m ∧ l.mapped w m

/-- Instruction i, run in s, completes with the result x stored at l: u is the state in which the result is stored, t the
one after; sps are its specifiers; io tells that an operand may lie in I/O space; mapped, that the operands read before the store
were found with no modify bit set in a device's register. -/
structure Completed {w : Nat} (i : Instr) (io : Bool) (sps : List Spec) (x : Want w) (l : Loc) (s u t : State)
    (mapped : Prop := True) : Prop where
  next : x.trap (s.pslBit pslIV) = none → exec i s = .next (t.setCC x.cc)
  trap : ∀ code, x.trap (s.pslBit pslIV) = some code → exec i s =
    initiate ⟨0x34, [code], t.pc, (t.setCC x.cc).psl, none, none⟩ (t.setCC x.cc)
  pc : t.pc = s.pc + BitVec.ofNat 32 i.length
  frame : Kept io l.writes (rPC :: sps.flatMap Spec.stepped ++ l.regs w) s t
  stored : mapped → Stored l x.r s u t

/-- Instruction i, run in s, completes with nothing written but the condition codes f: t is the state in which its
operands have been read. -/
structure Tested (i : Instr) (io : Bool) (sps : List Spec) (f : CC) (s t : State) : Prop where
  next : exec i s = .next (t.setCC f)
  pc : t.pc = s.pc + BitVec.ofNat 32 i.length
  frame : Kept io false (rPC :: sps.flatMap Spec.stepped) s t

/-- dst.w: a constant stored. -/
def Clears (w : Nat) (mk : Spec → Instr) : Prop := ∀ (dst : Spec) (s u t : State) (l : Loc),
  writeOp w dst (intIo w) s.opened = .ok l u → storeOp l (0 : BitVec w) (intIo w) u = .ok () t →
    Completed (mk dst) (intIo w) [dst] (wantMove (0 : BitVec w) s.cc) l s u t

/-- src.r of v bits, dst.w of w bits. -/
def Unary (v w : Nat) (mk : Spec → Spec → Instr) (f : BitVec v → CC → Want w) : Prop :=
  ∀ (src dst : Spec) (s s1 u t : State) (a : BitVec v) (l : Loc),
    readOp v src (intIo v) s.opened = .ok a s1 → writeOp w dst (intIo w) s1 = .ok l u →
    storeOp l (f a s.cc).r (intIo w) u = .ok () t →
      Completed (mk src dst) (intIo w) [src, dst] (f a s.cc) l s u t

/-- dst.m. -/
def Modify1 (w : Nat) (mk : Spec → Instr) (f : BitVec w → Want w) : Prop :=
  ∀ (dst : Spec) (s u t : State) (a : BitVec w) (l : Loc),
    modifyOp w dst (intIo w) s.opened = .ok (l, a) u → storeBack l (f a).r (intIo w) u = .ok () t →
      Completed (mk dst) (intIo w) [dst] (f a) l s u t (ModifyMapped w (intIo w) dst s.opened)

/-- src.r, dst.m: f takes the source, the old value of the destination and the old condition codes. io: an operand may lie in
I/O space (20_memory.md R230). -/
def Binary2 (w : Nat) (mk : Spec → Spec → Instr) (f : BitVec w → BitVec w → CC → Want w) (io : Bool := intIo w) : Prop :=
  ∀ (src dst : Spec) (s s1 u t : State) (a b : BitVec w) (l : Loc),
    readOp w src io s.opened = .ok a s1 → modifyOp w dst io s1 = .ok (l, b) u →
    storeBack l (f a b s.cc).r io u = .ok () t →
      Completed (mk src dst) io [src, dst] (f a b s.cc) l s u t (ModifyMapped w io dst s1)

/-- src1.r, src2.r, dst.w. -/
def Binary3 (w : Nat) (mk : Spec → Spec → Spec → Instr) (f : BitVec w → BitVec w → CC → Want w) (io : Bool := intIo w) :
    Prop :=
  ∀ (src1 src2 dst : Spec) (s s1 s2 u t : State) (a b : BitVec w) (l : Loc),
    readOp w src1 io s.opened = .ok a s1 → readOp w src2 io s1 = .ok b s2 → writeOp w dst io s2 = .ok l u →
    storeOp l (f a b s.cc).r io u = .ok () t →
      Completed (mk src1 src2 dst) io [src1, src2, dst] (f a b s.cc) l s u t

/-- cnt.rb, src.r, dst.w. -/
def Shifts (w : Nat) (mk : Spec → Spec → Spec → Instr) (f : Byte → BitVec w → CC → Want w) : Prop :=
  ∀ (cnt src dst : Spec) (s s1 s2 u t : State) (k : Byte) (a : BitVec w) (l : Loc),
    readOp 8 cnt false s.opened = .ok k s1 → readOp w src false s1 = .ok a s2 → writeOp w dst false s2 = .ok l u →
    storeOp l (f k a s.cc).r false u = .ok () t →
      Completed (mk cnt src dst) false [cnt, src, dst] (f k a s.cc) l s u t

/-- src1.r, src2.r: condition codes only. -/
def Compare2 (w : Nat) (mk : Spec → Spec → Instr) (f : BitVec w → BitVec w → CC → CC) : Prop :=
  ∀ (src1 src2 : Spec) (s s1 t : State) (a b : BitVec w),
    readOp w src1 (intIo w) s.opened = .ok a s1 → readOp w src2 (intIo w) s1 = .ok b t →
      Tested (mk src1 src2) (intIo w) [src1, src2] (f a b s.cc) s t

/-- src.r: condition codes only. -/
def Test1 (w : Nat) (mk : Spec → Instr) (f : BitVec w → CC) : Prop := ∀ (src : Spec) (s t : State) (a : BitVec w),
  readOp w src (intIo w) s.opened = .ok a t → Tested (mk src) (intIo w) [src] (f a) s t

/-- With its main memory in canonical form, a state's bytes are those of another, modify bits apart. -/
def Quiet (s t : State) : Prop := Memory.wf s.mem = true → SameBytesBut [] s t

/-- The write check of a place of w bits whose page tables are in main memory; the place itself may be a register of I/O space. -/
def checkMapped (w : Nat) : Loc → M Unit
  | .mem ea => do
    let s ← get
    probeWriteIn s.cur false true ea (w / 8)
  | _ => pure ()

/-- src.a, dst.wl: the address stored (R462). -/
def MovesAddress (ty : DType) (mk : Spec → Spec → Instr) : Prop :=
  ∀ (src dst : Spec) (s s1 u t : State) (a : Word) (l : Loc),
    addressOp ty true src s.opened = .ok a s1 → writeOp 32 dst true s1 = .ok l u → storeOp l a true u = .ok () t →
      Completed (mk src dst) true [src, dst] (wantMove a s.cc) l s u t

/-- EDIV's quotient, remainder and condition codes (R434). -/
def wantExtendedQuotient (divisor : Word) (dividend : BitVec 64) : Want 32 × Word :=
  let low : Word := dividend.setWidth 32
  let q := dividend.toInt.tdiv divisor.toInt
  let r := BitVec.ofInt 32 q
  if divisor.toNat = 0 then (⟨low, nz low true false, true⟩, 0)
  else if r.toInt = q then (⟨r, nz r false false, false⟩, BitVec.ofInt 32 (dividend.toInt - q * divisor.toInt))
  else (⟨low, nz low true false, false⟩, 0)

/-- A fault of an instruction run in s, at the state r its effects on registers and PSL are undone in, TP cleared (R1151,
R1192), with no UNIBUS held by the CPU (10_state.md R121). -/
def Faults (vec : Nat) (params : List Word) (s r : State) (o : Host.Outcome State Fault Refusal) : Prop :=
  let u := (r.undone s).clearTp
  o = initiate ⟨vec, params, s.pc, u.psl, none, none⟩ u

/-! ### The stack -/

/-- The physical addresses that pushes in a mode store to, in order, through page tables in main memory. -/
def pushedAt (mode : Mode) : List Word → State → List Nat
  | [], _ => []
  | v :: vs, s =>
    (match translateRange false (s.sp - 4) 4 true mode s with
      | .ok pas _ => pas
      | .error _ _ => []) ++
    match pushIn mode false v s with
    | .ok _ t => pushedAt mode vs t
    | .error _ _ => []

/-- What pushes through page tables in main memory do between u and t: SP moves down, the bytes pushed change, and nothing else. -/
structure PushedAll (mode : Mode) (vs : List Word) (u t : State) : Prop where
  sp : t.sp = u.sp - BitVec.ofNat 32 (4 * vs.length)
  frame : Kept false true [rSP] u t
  bytes : Memory.wf u.mem = true → SameBytesBut (pushedAt mode vs u) u t

/-- What pushes do between u and t where a page table may stand in I/O space too: there a modify bit set is a transaction with a
device. -/
structure PushedMapped (mode : Mode) (vs : List Word) (u t : State) : Prop where
  sp : t.sp = u.sp - BitVec.ofNat 32 (4 * vs.length)
  frame : Kept u.ipr.mapen true [rSP] u t
  inMemory : pushAllIn mode false vs u = .ok () t → PushedAll mode vs u t

/-- src: a value pushed (R377, R466). -/
def PushesValue (mk : Spec → Instr) (value : Spec → M Word) : Prop := ∀ (src : Spec) (s u t : State) (a : Word),
  value src s.opened = .ok a u → pushMapped a u = .ok () t →
    exec (mk src) s = .next (t.setCC (nz a false s.cc.c)) ∧ t.pc = s.pc + BitVec.ofNat 32 (mk src).length ∧
    Kept true false (rPC :: src.stepped) s u ∧ Quiet s u ∧ PushedMapped u.cur [a] u t ∧ Stored (.mem (u.sp - 4)) a s u t

/-- The registers of a mask, in an order. -/
def maskRegs (mask : BitVec 16) (order : List Reg) : List Reg := order.filter fun n => mask.getLsbD n.val

/-- Registers popped in order (42_control.md R507; 43_field_queue_misc.md R562). -/
def popInto : List Reg → M Unit
  | [] => pure ()
  | n :: ns => do
    let v ← pop
    putReg n v
    popInto ns

/-! ### Transfers of control -/

/-- PC loaded with a branch target, the instruction buffer refilled, or left (42_control.md R470; 20_memory.md R229). -/
def State.branch (s : State) (taken : Bool) (target : Word) : State :=
  if taken then { s.setPc target with stale := [], prefetched := [] } else s

/-- displ.bb: a branch decided by the condition codes. -/
def Branches (mk : BitVec 8 → Instr) (p : CC → Bool) : Prop := ∀ (d : BitVec 8) (s : State),
  exec (mk d) s = .next ((s.setPc (s.pc + 2)).branch (p s.cc) (s.pc + 2 + d.signExtend 32))

/-- Loop instruction i, run in s, completes: the new index x stored at l from u on, then the branch decided; t is the state
after the store. -/
structure Looped {w : Nat} (i : Instr) (sps : List Spec) (x : Want w) (taken : Bool) (displ : Word) (l : Loc)
    (s u t : State) : Prop where
  next : x.trap (s.pslBit pslIV) = none → exec i s = .next ((t.branch taken (t.pc + displ)).setCC x.cc)
  trap : ∀ code, x.trap (s.pslBit pslIV) = some code → exec i s =
    initiate ⟨0x34, [code], (t.branch taken (t.pc + displ)).pc, ((t.branch taken (t.pc + displ)).setCC x.cc).psl, none,
      none⟩ ((t.branch taken (t.pc + displ)).setCC x.cc)
  pc : t.pc = s.pc + BitVec.ofNat 32 i.length
  frame : Kept false l.writes (rPC :: sps.flatMap Spec.stepped ++ l.regs w) s t
  stored : Stored l x.r s u t

/-- A loop's new index: C as before (R493). -/
def wantIndex {w : Nat} (x : Want w) (old : CC) : Want w := { x with cc := { x.cc with c := old.c } }

/-- limit.r, add.r, index.m, displ.bw (R493). -/
def AddCompares (w : Nat) (mk : Spec → Spec → Spec → BitVec 16 → Instr) : Prop :=
  ∀ (limit add idx : Spec) (displ : BitVec 16) (s s1 s2 s3 u t : State) (lim a i : BitVec w) (l : Loc),
    readInt w false limit s.opened = .ok lim s1 → readInt w false add s1 = .ok a s2 →
    modifyInMemory w (intType w) idx s2 = .ok (l, i) s3 → u = s3.setPc (s3.pc + 2) →
    let x := wantIndex (wantSum i a false) s.cc
    storeLoc false false l x.r u = .ok () t →
      Looped (mk limit add idx displ) [limit, add, idx] x
        (if 0 ≤ a.toInt then decide (x.r.toInt ≤ lim.toInt) else decide (lim.toInt ≤ x.r.toInt)) (displ.signExtend 32)
        l s u t

/-- limit.rl, index.ml, displ.bb (R496). -/
def AddOnes (mk : Spec → Spec → BitVec 8 → Instr) (p : Int → Int → Bool) : Prop :=
  ∀ (limit idx : Spec) (displ : BitVec 8) (s s1 s2 u t : State) (lim i : Word) (l : Loc),
    readInt 32 false limit s.opened = .ok lim s1 → modifyInMemory 32 .l idx s1 = .ok (l, i) s2 →
    u = s2.setPc (s2.pc + 1) →
    let x := wantIndex (wantSum i 1 false) s.cc
    storeLoc false false l x.r u = .ok () t →
      Looped (mk limit idx displ) [limit, idx] x (p x.r.toInt lim.toInt) (displ.signExtend 32) l s u t

/-- index.ml, displ.bb (R498). -/
def SubtractOnes (mk : Spec → BitVec 8 → Instr) (p : Int → Bool) : Prop :=
  ∀ (idx : Spec) (displ : BitVec 8) (s s1 u t : State) (i : Word) (l : Loc),
    modifyInMemory 32 .l idx s.opened = .ok (l, i) s1 → u = s1.setPc (s1.pc + 1) →
    let x := wantIndex (wantDifference i 1 false) s.cc
    storeLoc false false l x.r u = .ok () t →
      Looped (mk idx displ) [idx] x (p x.r.toInt) (displ.signExtend 32) l s u t

/-- selector.r, base.r, limit.r and a table of word displacements at the updated PC (R501). -/
def Cases (w : Nat) (mk : Spec → Spec → Spec → Instr) : Prop :=
  ∀ (selector base limit : Spec) (s s1 s2 t : State) (sel b lim : BitVec w),
    readOp w selector (intIo w) s.opened = .ok sel s1 → readOp w base (intIo w) s1 = .ok b s2 →
    readOp w limit (intIo w) s2 = .ok lim t →
    let k := (sel - b).toNat
    let f := wantCompare (sel - b) lim
    t.pc = s.pc + BitVec.ofNat 32 (mk selector base limit).length ∧
    Kept true false (rPC :: [selector, base, limit].flatMap Spec.stepped) s t ∧
    (∀ v d, k ≤ lim.toNat → fetchWord (t.pc + BitVec.ofNat 32 (2 * k)) t = .ok d v →
      exec (mk selector base limit) s = .next ((v.branch true (t.pc + d.signExtend 32)).setCC f) ∧
      Kept true false [] t v) ∧
    (lim.toNat < k →
      exec (mk selector base limit) s =
        .next ((t.setPc (t.pc + BitVec.ofNat 32 (2 * (lim.toNat + 1)))).setCC f))

/-! ### Call frames -/

/-- R11 to R0. -/
def callRegs : List Reg := [11, 10, 9, 8, 7, 6, 5, 4, 3, 2, 1, 0]

/-- The mask and PSW longword of a call frame: SPA 31:30, S 29, the entry mask's bits 11:0 27:16, PSW 15:5 (R504). -/
def callWord (spa : BitVec 2) (calls : Bool) (mask : BitVec 16) (psl : Word) : Word :=
  spa ++ BitVec.ofBool calls ++ (0 : BitVec 1) ++ mask.extractLsb' 0 12 ++ psl.extractLsb' 5 11 ++ (0 : BitVec 5)

/-- What a call pushes, in order, from a state u whose SP is not yet aligned (R505). -/
def callPushes (calls : Bool) (mask : BitVec 16) (u : State) : List Word :=
  (maskRegs mask callRegs).map u.reg ++
    [u.pc, u.reg rFP, u.reg rAP, callWord (u.sp.extractLsb' 0 2) calls mask u.psl, 0]

/-- The PSL in a called procedure: the condition codes and FU cleared, IV and DV from the entry mask (R505). -/
def calledPsl (psl : Word) (mask : BitVec 16) : Word :=
  psl.extractLsb' 8 24 ++ mask.extractLsb' 15 1 ++ (0 : BitVec 1) ++ mask.extractLsb' 14 1 ++ psl.extractLsb' 4 1 ++
    (0 : BitVec 4)

/-- A procedure entered: instruction i is run in s; u is the state before SP is aligned, v after the whole frame has been
checked, t after the pushes (R505; 70_reset_and_hazards.md R1285). -/
def Enters (i : Instr) (calls : Bool) (mask : BitVec 16) (ap dst : Word) (s u : State) : Prop :=
  let x := u.setReg rSP (u.sp &&& 0xFFFFFFFC)
  let vs := callPushes calls mask u
  ∀ v t, checkPushes vs.length x.sp x = .ok () v → pushAllIn u.cur false vs v = .ok () t →
    exec i s = .next { ((t.setReg rFP t.sp).setReg rAP ap).setPc (dst + 2) with
      psl := calledPsl u.psl mask, stale := [], prefetched := [] } ∧
    Kept false true [] x v ∧ Quiet x v ∧ PushedAll u.cur vs v t


/-! ### Variable-length bit fields -/

/-- The size bits of a field from its position on stand for the number x; u is the state before they are read, v after
(43_field_queue_misc.md R540, R541). -/
def FieldIs (f : FieldRef) (u v : State) (x : Nat) : Prop :=
  let n := f.size.toNat
  n ≤ 32 ∧
  if n = 0 then v = u ∧ x = 0
  else
    match f.base with
    | .const _ => False
    | .reg r => v = u ∧ f.pos.toNat < 32 ∧ (r = rSP → f.pos.toNat + n ≤ 32) ∧
        x = ((u.reg (r + 1)).toNat * 2 ^ 32 + (u.reg r).toNat) / 2 ^ f.pos.toNat % 2 ^ n
    | .mem a =>
      let o := f.pos.toNat % 8
      ∃ m, loadVirtIn u.cur false false false (a + f.pos.sshiftRight 3) ((o + n + 7) / 8) u = .ok m v ∧
        x = m / 2 ^ o % 2 ^ n

/-- A field of n bits as a signed number (R541). -/
def fieldSigned (n x : Nat) : Word := BitVec.ofInt 32 (if 2 * x < 2 ^ n then (x : Int) else (x : Int) - 2 ^ n)

/-- A field of n bits as an unsigned number (R541). -/
def fieldUnsigned (_ x : Nat) : Word := BitVec.ofNat 32 x

/-- A field that is a reserved operand: of more than 32 bits, or of some bits in a register from a position above 31 on (R540). -/
def FieldRef.Reserved (f : FieldRef) : Prop :=
  32 < f.size.toNat ∨ ∃ r, f.base = .reg r ∧ f.size ≠ 0 ∧ 31 < f.pos.toNat

/-- pos, size, base, dst.wl: the field stored; a reserved one faults once every specifier has been evaluated (R540). -/
def Extracts (mk : Spec → Spec → Spec → Spec → Instr) (value : Nat → Nat → Word) : Prop :=
  ∀ (pos size base dst : Spec) (s s1 u : State) (f : FieldRef) (l : Loc),
    fieldOperands pos size base s.opened = .ok f s1 → writeOp 32 dst false s1 = .ok l u →
      (∀ (v t : State) (x : Nat), FieldIs f u v x → storeOp l (value f.size.toNat x) false v = .ok () t →
        Completed (mk pos size base dst) false [pos, size, base, dst] (wantMove (value f.size.toNat x) s.cc) l s v t) ∧
      (f.Reserved → Faults 0x18 [] s u (exec (mk pos size base dst) s))

/-- pos, size, base, src.rl: the field compared; a reserved one faults once every specifier has been evaluated (R540). -/
def ComparesField (mk : Spec → Spec → Spec → Spec → Instr) (value : Nat → Nat → Word) : Prop :=
  ∀ (pos size base src : Spec) (s s1 u : State) (f : FieldRef) (a : Word),
    fieldOperands pos size base s.opened = .ok f s1 → readOp 32 src false s1 = .ok a u →
      (∀ (t : State) (x : Nat), FieldIs f u t x →
        Tested (mk pos size base src) false [pos, size, base, src] (wantCompare (value f.size.toNat x) a) s t) ∧
      (f.Reserved → Faults 0x18 [] s u (exec (mk pos size base src) s))

/-- startpos, size, base, findpos.wl: i is the number of the first bit that is want, or the size (R547); a reserved field faults
once every specifier has been evaluated (R540). -/
def FindsBit (mk : Spec → Spec → Spec → Spec → Instr) (want : Bool) : Prop :=
  ∀ (pos size base dst : Spec) (s s1 u : State) (f : FieldRef) (l : Loc),
    fieldOperands pos size base s.opened = .ok f s1 → writeOp 32 dst false s1 = .ok l u →
      (∀ (v t : State) (x i : Nat), FieldIs f u v x →
        i ≤ f.size.toNat → (∀ j, j < i → x.testBit j ≠ want) → (i < f.size.toNat → x.testBit i = want) →
        storeOp l (f.pos + BitVec.ofNat 32 i) false v = .ok () t →
          Completed (mk pos size base dst) false [pos, size, base, dst]
            ⟨f.pos + BitVec.ofNat 32 i, ⟨false, decide (i = f.size.toNat), false, false⟩, false⟩ l s v t) ∧
      (f.Reserved → Faults 0x18 [] s u (exec (mk pos size base dst) s))

/-- pos.rl, base.vb, displ.bb: a branch on a bit that is not changed; a position above 31 in a register is a reserved operand
fault (R549). -/
def BranchesOnBit (mk : Spec → Spec → BitVec 8 → Instr) (want : Nat) : Prop :=
  ∀ (pos base : Spec) (d : BitVec 8) (s s1 s2 u : State) (p : Word) (b : Loc),
    readInt 32 false pos s.opened = .ok p s1 → locate .field .b false base s1 = .ok b s2 →
    u = s2.setPc (s2.pc + 1) →
      (∀ (t : State) (x : Nat), FieldIs ⟨p, 1, b⟩ u t x →
        exec (mk pos base d) s = .next (t.branch (decide (x = want)) (t.pc + d.signExtend 32)) ∧
        t.pc = s.pc + BitVec.ofNat 32 (mk pos base d).length ∧
        Kept false false (rPC :: [pos, base].flatMap Spec.stepped) s t) ∧
      (∀ n, b = .reg n → 31 < p.toNat → Faults 0x18 [] s u (exec (mk pos base d) s))

/-- Bit i of a word replaced. -/
def withBit {w : Nat} (x : BitVec w) (i : Nat) (v : Bool) : BitVec w :=
  if v then x ||| BitVec.ofNat w (2 ^ i) else x &&& ~~~BitVec.ofNat w (2 ^ i)

/-- pos.rl, base.vb, displ.bb: a branch on a bit that becomes new; a position above 31 in a register is a reserved operand fault
(R549). With ilk the byte is changed under the SBI interlock, for which the instruction waits. -/
def BranchesOnBitAndSets (mk : Spec → Spec → BitVec 8 → Instr) (want new ilk : Bool) : Prop :=
  ∀ (pos base : Spec) (d : BitVec 8) (s s1 s2 u : State) (p : Word) (b : Loc),
    readInt 32 false pos s.opened = .ok p s1 → locate .field .b false base s1 = .ok b s2 →
    u = s2.setPc (s2.pc + 1) →
      u.pc = s.pc + BitVec.ofNat 32 (mk pos base d).length ∧
      Kept false false (rPC :: [pos, base].flatMap Spec.stepped) s u ∧
      (∀ n, b = .reg n → p.toNat < 32 →
        exec (mk pos base d) s = .next ((u.setReg n (withBit (u.reg n) p.toNat new)).branch
          ((u.reg n).getLsbD p.toNat == want) (u.pc + d.signExtend 32))) ∧
      (∀ n, b = .reg n → 31 < p.toNat → Faults 0x18 [] s u (exec (mk pos base d) s)) ∧
      (∀ (a : Word) (m : Nat) (v t : State), b = .mem a → (ilk = true → u.bus.intlk = false) →
        loadVirtIn u.cur false false true (a + p.sshiftRight 3) 1 u = .ok m v →
        storeVirtIn v.cur false false (a + p.sshiftRight 3) 1 (withBit (BitVec.ofNat 8 m) (p.toNat % 8) new).toNat v
          = .ok () t →
          exec (mk pos base d) s = .next (t.branch (m.testBit (p.toNat % 8) == want) (u.pc + d.signExtend 32)) ∧
          Kept false true [] u t ∧
          Stored (.mem (a + p.sshiftRight 3)) (withBit (BitVec.ofNat 8 m) (p.toNat % 8) new) s v t) ∧
      (∀ a, b = .mem a → ilk = true → u.bus.intlk = true → exec (mk pos base d) s = .next s.clearTp)


/-! ### Exceptions and returns -/

/-- The PSL an event loads: its IS, CUR, PRV and IPL given, all else cleared (60_exceptions.md R1190, R1195). -/
def enteredPsl (is : Bool) (cur prv : Mode) (ipl : BitVec 5) : Word :=
  (0 : BitVec 5) ++ BitVec.ofBool is ++ cur ++ prv ++ (0 : BitVec 1) ++ ipl ++ (0 : BitVec 16)

/-- The state in which an event pushes: on the interrupt stack when it is already there or the vector's code is 1, else on
the stack of the new mode (R1190). -/
def State.eventStack (s : State) (interruptStack : Bool) (mode : Mode) : State :=
  if s.onIntStack then s else s.switchStack (if interruptStack then 4 else modeStack mode)

/-- Event e taken in s leaves the outcome o: through an SCB longword that names the interrupt stack (code 1) or the stack of
the new mode (code 0, or a CHMx, which ignores the code), PSL, PC and the parameters are pushed, and PC and PSL loaded
(R1161, R1190); r is the state after that longword is read. -/
def Takes (e : Event) (s : State) (o : Host.Outcome State Fault Refusal) : Prop :=
  ∀ (vector : Word) (r t : State), physReadLong true (s.ipr.scbb.toNat + e.vec) s = .ok vector r →
    let mode : Mode := e.chm.getD 0
    let onInt := e.chm.isNone && decide (vector.toNat % 4 = 1)
    let u := r.eventStack onInt mode
    (e.chm.isSome = true ∨ vector.toNat % 4 = 1 ∨ (vector.toNat % 4 = 0 ∧ e.vec ≠ 4 ∧ e.vec ≠ 8)) →
    pushAllIn mode true (e.psl :: e.pc :: e.params) u = .ok () t →
      o = .next { t.setPc (vector &&& 0xFFFFFFFC) with
        psl := enteredPsl (s.onIntStack || onInt) mode (if e.ipl.isSome then 0 else s.cur)
          (e.ipl.getD (if onInt then 31 else s.ipl))
        stale := []
        prefetched := [] } ∧
      PushedMapped mode (e.psl :: e.pc :: e.params) u t

/-- The opcode alone raises a fault (30_encoding.md R263, 40_privileged.md R329, 42_control.md R508). -/
def TakesFault (vec : Nat) (i : Instr) : Prop := ∀ s : State,
  exec i s = initiate ⟨vec, [], s.pc, s.clearTp.psl, none, none⟩ s.clearTp ∧
  Takes ⟨vec, [], s.pc, s.clearTp.psl, none, none⟩ s.clearTp (exec i s)

/-- code.rw: CHMx to mode om (40_privileged.md R322), v being the state after the three pushes have been checked on the stack of
the new mode (70_reset_and_hazards.md R1285), with no byte changed but modify bits where the page tables are in main memory; a push
that may not be made is a fault of the instruction (60_exceptions.md R1191). -/
def ChangesMode (om : Mode) (mk : Spec → Instr) : Prop := ∀ (code : Spec) (s u : State) (c : BitVec 16),
  readOp 16 code true s.opened = .ok c u →
    let mode : Mode := if om.toNat < s.cur.toNat then om else s.cur
    u.pc = s.pc + BitVec.ofNat 32 (mk code).length ∧
    (u.onIntStack = true → exec (mk code) s = .next (u.halt .chmError)) ∧
    (∀ v, u.onIntStack = false → checkPushesIn mode true 3 (u.getSp (modeStack mode)) u = .ok () v →
      Kept u.ipr.mapen true [] u v ∧
      (checkPushesIn mode false 3 (u.getSp (modeStack mode)) u = .ok () v → Kept false true [] u v ∧ Quiet u v) ∧
      Takes ⟨0x40 + 4 * om.toNat, [c.signExtend 32], u.pc, s.psl, none, some mode⟩ v (exec (mk code) s)) ∧
    (∀ vec ps v, u.onIntStack = false → checkPushesIn mode true 3 (u.getSp (modeStack mode)) u = .error (.fault vec ps) v →
      Faults vec ps s v (exec (mk code) s))

/-- The PSL image a return may load over a PSL (42_control.md R500). -/
structure ReturnAllowed (old new : Word) : Prop where
  cur : (old.extractLsb' 24 2).toNat ≤ (new.extractLsb' 24 2).toNat
  prv : (new.extractLsb' 24 2).toNat ≤ (new.extractLsb' 22 2).toNat
  ipl : (new.extractLsb' 16 5).toNat ≤ (old.extractLsb' 16 5).toNat
  elevated : (new.extractLsb' 16 5).toNat ≠ 0 → (new.extractLsb' 24 2).toNat = 0
  is : new.getLsbD 26 = true →
    old.getLsbD 26 = true ∧ (new.extractLsb' 24 2).toNat = 0 ∧ (new.extractLsb' 16 5).toNat ≠ 0
  mbz : (new.extractLsb' 28 2).toNat = 0 ∧ new.getLsbD 21 = false ∧ (new.extractLsb' 8 8).toNat = 0

/-! ### Process context -/

/-- Longwords written one after another at a physical address. -/
def storeLongs : Nat → List Word → M Unit
  | _, [] => pure ()
  | pa, v :: vs => do
    physWriteLong pa v
    storeLongs (pa + 4) vs

/-- The state with the context of a process control block loaded, f k being its longword k, before PSL and PC are pushed
(40_privileged.md R320). -/
def State.contextLoaded (s : State) (f : Nat → Word) : State :=
  { s with
    regs := #v[f 4, f 5, f 6, f 7, f 8, f 9, f 10, f 11, f 12, f 13, f 14, f 15, f 16, f 17, f 0, s.pc]
    spb := if s.onIntStack then #v[f 0, f 1, f 2, f 3, s.sp] else #v[s.spb[0], f 1, f 2, f 3, s.spb[4]]
    psl := s.psl &&& 0xFBFFFFFF
    ipr := { s.ipr with
      p0br := f 20
      p0lr := (f 21).extractLsb' 0 22
      astlvl := (f 21).extractLsb' 24 3
      p1br := f 22
      p1lr := (f 23).extractLsb' 0 22
      pme := (f 23).getLsbD 31 }
    tb := s.tb.filter fun e => e.vpn.getLsbD 22
    mapLog := if s.ipr.mapen || !s.mapLog.isEmpty then .flushProcess :: s.mapLog else s.mapLog }

/-- The checks on a process control block, on P0BR, P0LR, ASTLVL, P1BR and P1LR in order (R320). -/
def contextChecks (f : Nat → Word) : List Bool :=
  [decide ((f 20).toNat / 2 ^ 30 = 2 ∧ (f 20).toNat % 4 = 0),
    decide ((f 21).toNat / 2 ^ 27 = 0 ∧ (f 21).toNat / 2 ^ 22 % 4 = 0),
    decide ((f 21).toNat / 2 ^ 24 % 8 < 5),
    decide ((f 22 + 0x00800000).toNat / 2 ^ 30 = 2 ∧ (f 22).toNat % 4 = 0),
    decide ((f 23).toNat / 2 ^ 22 % 2 ^ 9 = 0)]

/-- A process control block that all checks pass. -/
def ContextValid (f : Nat → Word) : Prop := ∀ ok ∈ contextChecks f, ok = true

/-- The state in which check number k on a process control block fails: the stack pointers, the registers and what the checks
before it passed are loaded (R320). -/
def State.contextPart (s : State) (f : Nat → Word) (k : Nat) : State :=
  { s with
    regs := #v[f 4, f 5, f 6, f 7, f 8, f 9, f 10, f 11, f 12, f 13, f 14, f 15, f 16, f 17,
      if s.onIntStack then s.sp else f 0, s.pc]
    spb := if s.onIntStack then #v[f 0, f 1, f 2, f 3, s.spb[4]] else #v[s.spb[0], f 1, f 2, f 3, s.spb[4]]
    ipr := { s.ipr with
      p0br := if 0 < k then f 20 else s.ipr.p0br
      p0lr := if 1 < k then (f 21).extractLsb' 0 22 else s.ipr.p0lr
      astlvl := if 2 < k then (f 21).extractLsb' 24 3 else s.ipr.astlvl
      p1br := if 3 < k then f 22 else s.ipr.p1br }
    tb := s.tb.filter fun e => e.vpn.getLsbD 22
    mapLog := if s.ipr.mapen || !s.mapLog.isEmpty then .flushProcess :: s.mapLog else s.mapLog }

/-- The bytes the instruction buffer holds are kept while the memory map is changed; nothing else is, but for translations and what
a read of a memory in error records (70_reset_and_hazards.md R1284). -/
structure Refetched (s t : State) : Prop where
  keeps : keepPrefetched s = .ok () t
  frame : t = { s with tb := t.tb, free := t.free, prefetched := t.prefetched, errs := t.errs }
  errs : t.errs.memory ⊆ s.errs.memory ∧ (s.errs.memory = [] → t.errs = s.errs)
  bytes : ∃ l, l.length ≤ 8 ∧ t.prefetched = l ++ s.prefetched


/-! ### Floating point -/

/-- An arithmetic trap of instruction i with a code, its results in t (60_exceptions.md R1219). -/
def Traps (code : Word) (t : State) (o : Host.Outcome State Fault Refusal) : Prop :=
  o = initiate ⟨0x34, [code], t.pc, t.psl, none, none⟩ t

/-- The condition codes of a floating datum: N and Z from its value (44_float.md R602). -/
def wantFloatCC {w : Nat} (x : BitVec w) (c : Bool) : CC := ⟨decide ((fVal x).m < 0), decide ((fVal x).m = 0), false, c⟩

/-- How an instruction with the floating result x ends, t being the state after its store: underflow traps with code 5 when
FU is set; overflow and divide by zero trap with codes 3 and 4, the condition codes free (R602), but C where keep says that
the instruction keeps it (R649). -/
structure FloatEnds {w : Nat} (i : Instr) (x : FResult w) (c keep : Bool) (s t : State) : Prop where
  next : x.event = .none ∨ (x.event = .underflow ∧ s.pslBit pslFU = false) →
    exec i s = .next (t.setCC (wantFloatCC x.r c))
  underflow : x.event = .underflow → s.pslBit pslFU = true → Traps 5 (t.setCC (wantFloatCC x.r c)) (exec i s)
  overflow : x.event = .overflow → ∃ f : CC, (keep = true → f.c = c) ∧ Traps 3 ({ t with free := t.free + 1 }.setCC f) (exec i s)
  divZero : x.event = .divZero → ∃ f : CC, (keep = true → f.c = c) ∧ Traps 4 ({ t with free := t.free + 1 }.setCC f) (exec i s)

/-- Instruction i, run in s, completes with the floating result x stored at l. -/
structure FloatCompleted {w : Nat} (i : Instr) (io : Bool) (sps : List Spec) (x : FResult w) (c : Bool) (l : Loc)
    (s u t : State) : Prop where
  ends : FloatEnds i x c false s t
  pc : t.pc = s.pc + BitVec.ofNat 32 i.length
  frame : Kept io l.writes (rPC :: sps.flatMap Spec.stepped ++ l.regs w) s t
  stored : Stored l x.r s u t

/-- Instruction i, run in s, has evaluated all its specifiers, u being the state after: a reserved operand among the data it read is
a fault (44_float.md R601; 60_exceptions.md R1231); with none, it goes on to what rest says. -/
def Checked (reserved : Bool) (i : Instr) (s u : State) (rest : Prop) : Prop :=
  (reserved = true → Faults 0x18 [] s u (exec i s)) ∧ (reserved = false → rest)

/-- A fault of a specifier that m evaluates in u is the fault of instruction i, run in s, whatever the specifiers before it brought
(R1231). -/
def SpecFaults {α : Type} (m : M α) (i : Instr) (s u : State) : Prop :=
  ∀ (vec : Nat) (ps : List Word) (v : State), m u = .error (.fault vec ps) v → Faults vec ps s v (exec i s)

/-- a.r, b.m: f takes the value of a and of b. -/
def FloatBinary2 (w : Nat) (mk : Spec → Spec → Instr) (f : FVal → FVal → FResult w) : Prop :=
  ∀ (a b : Spec) (s s1 : State) (x : BitVec w), rawFloat w a s.opened = .ok x s1 →
    SpecFaults (rawModifyFloat w b) (mk a b) s s1 ∧
    ∀ (u : State) (y : BitVec w) (l : Loc), rawModifyFloat w b s1 = .ok (l, y) u →
      Checked (fReserved x || fReserved y) (mk a b) s u (∀ t, storeFloat l (f (fVal x) (fVal y)).r u = .ok () t →
        FloatCompleted (mk a b) false [a, b] (f (fVal x) (fVal y)) false l s u t)

/-- a.r, b.r, dst.w. -/
def FloatBinary3 (w : Nat) (mk : Spec → Spec → Spec → Instr) (f : FVal → FVal → FResult w) : Prop :=
  ∀ (a b dst : Spec) (s s1 : State) (x : BitVec w), rawFloat w a s.opened = .ok x s1 →
    SpecFaults (rawFloat w b) (mk a b dst) s s1 ∧
    ∀ (s2 : State) (y : BitVec w), rawFloat w b s1 = .ok y s2 → SpecFaults (writeFloat w dst) (mk a b dst) s s2 ∧
    ∀ (u : State) (l : Loc), writeFloat w dst s2 = .ok l u →
      Checked (fReserved x || fReserved y) (mk a b dst) s u (∀ t, storeFloat l (f (fVal x) (fVal y)).r u = .ok () t →
        FloatCompleted (mk a b dst) false [a, b, dst] (f (fVal x) (fVal y)) false l s u t)

/-- src.r, dst.w: f takes the datum and the old C. -/
def FloatUnary (v w : Nat) (mk : Spec → Spec → Instr) (f : BitVec v → FResult w) (keepC : Bool) : Prop :=
  ∀ (src dst : Spec) (s s1 : State) (x : BitVec v), rawFloat v src s.opened = .ok x s1 →
    SpecFaults (writeFloat w dst) (mk src dst) s s1 ∧
    ∀ (u : State) (l : Loc), writeFloat w dst s1 = .ok l u →
      Checked (fReserved x) (mk src dst) s u (∀ t, storeFloat l (f x).r u = .ok () t →
        FloatCompleted (mk src dst) false [src, dst] (f x) (keepC && s.cc.c) l s u t)

/-- src.r floating, dst.w integer: g takes the integer from the value. -/
def FloatToInt (v w : Nat) (mk : Spec → Spec → Instr) (g : FVal → Int) : Prop :=
  ∀ (src dst : Spec) (s s1 : State) (x : BitVec v), rawFloat v src s.opened = .ok x s1 →
    SpecFaults (writeOp w dst false) (mk src dst) s s1 ∧
    ∀ (u : State) (l : Loc), writeOp w dst false s1 = .ok l u →
      Checked (fReserved x) (mk src dst) s u (∀ t, storeOp l (wantExact w (g (fVal x))).r false u = .ok () t →
        Completed (mk src dst) false [src, dst] (wantExact w (g (fVal x))) l s u t)

/-- src.r integer, dst.w floating. -/
def IntToFloat (v w : Nat) (mk : Spec → Spec → Instr) : Prop :=
  ∀ (src dst : Spec) (s s1 u t : State) (a : BitVec v) (l : Loc),
    readOp v src false s.opened = .ok a s1 → writeFloat w dst s1 = .ok l u →
    storeFloat l (fStore w ⟨a.toInt, 0⟩).r u = .ok () t →
      FloatCompleted (mk src dst) false [src, dst] (fStore w ⟨a.toInt, 0⟩) false l s u t

/-- src1.r, src2.r: condition codes only (R624). -/
def FloatCompares (w : Nat) (mk : Spec → Spec → Instr) : Prop :=
  ∀ (a b : Spec) (s s1 : State) (x : BitVec w), rawFloat w a s.opened = .ok x s1 → SpecFaults (rawFloat w b) (mk a b) s s1 ∧
    ∀ (t : State) (y : BitVec w), rawFloat w b s1 = .ok y t → Checked (fReserved x || fReserved y) (mk a b) s t
      (Tested (mk a b) false [a, b] ⟨(fVal x).lt (fVal y), (fVal x).eq (fVal y), false, false⟩ s t)

/-- src.r: condition codes only (R626). -/
def FloatTests (w : Nat) (mk : Spec → Instr) : Prop :=
  ∀ (a : Spec) (s t : State) (x : BitVec w), rawFloat w a s.opened = .ok x t →
    Checked (fReserved x) (mk a) s t (Tested (mk a) false [a] (wantFloatCC x false) s t)

/-- mulr.r, mulrx.rb, muld.r, int.wl, fract.w (R644): p is the exact product, i its integer part. -/
def ExtendsModulus (w : Nat) (mk : Spec → Spec → Spec → Spec → Spec → Instr) : Prop :=
  ∀ (mulr mulrx muld int fract : Spec) (s s1 : State) (a : BitVec w), rawFloat w mulr s.opened = .ok a s1 →
  let ins := mk mulr mulrx muld int fract
  SpecFaults (readInt 8 false mulrx) ins s s1 ∧
  ∀ (s2 : State) (ext : Byte), readInt 8 false mulrx s1 = .ok ext s2 → SpecFaults (rawFloat w muld) ins s s2 ∧
  ∀ (s3 : State) (b : BitVec w), rawFloat w muld s2 = .ok b s3 → SpecFaults (locate .write .l false int) ins s s3 ∧
  ∀ (s4 : State) (li : Loc), locate .write .l false int s3 = .ok li s4 → SpecFaults (writeFloat w fract) ins s s4 ∧
  ∀ (s5 : State) (lf : Loc), writeFloat w fract s4 = .ok lf s5 →
  Checked (fReserved a || fReserved b) ins s s5 (∀ (s6 u v t : State),
    checkStore false 32 li s5 = .ok () s6 → checkStore false w lf s6 = .ok () u →
    let p := (fExtend a ext).mul (fVal b)
    let i := p.trunc
    let r : Word := BitVec.ofInt 32 i
    let x := fStore w (p.sub ⟨i, 0⟩)
    storeLoc false false li r u = .ok () v → storeFloat lf x.r v = .ok () t →
      let y := t.setCC { wantFloatCC x.r false with v := decide (r.toInt ≠ i) }
      let o := exec ins s
      (r.toInt ≠ i → s.pslBit pslIV = true → Traps 1 y o) ∧
      (r.toInt = i ∨ s.pslBit pslIV = false →
        (x.event = .underflow → s.pslBit pslFU = true → Traps 5 y o) ∧
        (x.event ≠ .underflow ∨ s.pslBit pslFU = false → o = .next y)) ∧
      t.pc = s.pc + BitVec.ofNat 32 ins.length ∧
      Kept false (li.writes || lf.writes)
        (rPC :: [mulr, mulrx, muld, int, fract].flatMap Spec.stepped ++ li.regs 32 ++ lf.regs w) s t ∧
      Quiet s u ∧ Stored li r u u v ∧ Stored lf x.r v v t)

/-- The n data of a table, in order. -/
def readTable (w : Nat) : Nat → Word → M (List (BitVec w))
  | 0, _ => pure []
  | n + 1, a => do
    let c ← memReadN a (w / 8)
    let cs ← readTable w n (a + BitVec.ofNat 32 (w / 8))
    pure (BitVec.ofNat w c :: cs)

/-- The steps of a polynomial's evaluation from the result r on, over the coefficients left: the last result, and whether
some step underflowed; none when a step overflows (R646). -/
def horner {w : Nat} (arg : FVal) : BitVec w → Bool → List (BitVec w) → Option (BitVec w × Bool)
  | r, under, [] => some (r, under)
  | r, under, c :: cs =>
    let x := fStore w ((((fVal r).mul arg).truncBits (w - 1)).add (fVal c))
    if x.event = .overflow then none else horner arg x.r (under || x.event == .underflow) cs

/-- Registers replaced by the values of a list. -/
def State.withRegs (s : State) (vs : List (Reg × Word)) : State := vs.foldl (fun s p => s.setReg p.1 p.2) s

/-- The first coefficients of a polynomial, none reserved, are used without an overflow. -/
def GoesOn {w : Nat} (arg : FVal) : List (BitVec w) → Prop
  | [] => True
  | c :: cs => (∀ k ∈ c :: cs, fReserved k = false) ∧ horner arg c false cs ≠ none

/-- arg.r, degree.rw, tbladdr.ab (R646 to R648): regs are the registers a result gives. A degree above 31 and a reserved
argument, once the specifiers have been evaluated, and a reserved coefficient, once the coefficients before it have been used, are
reserved operand faults. The result of all coefficients
is stored; a step that overflows ends the evaluation with the reserved operand (log 37). -/
def Polynomials (w : Nat) (mk : Spec → Spec → Spec → Instr) (regs : BitVec w → Word → List (Reg × Word)) : Prop :=
  ∀ (arg degree tbladdr : Spec) (s s1 : State) (x : BitVec w), rawFloat w arg s.opened = .ok x s1 →
  let i := mk arg degree tbladdr
  SpecFaults (readInt 16 false degree) i s s1 ∧
  ∀ (s2 : State) (d : BitVec 16), readInt 16 false degree s1 = .ok d s2 → SpecFaults (addressOp .b false tbladdr) i s s2 ∧
  ∀ (s3 : State) (a : Word), addressOp .b false tbladdr s2 = .ok a s3 →
  Checked (decide (31 < d.toNat) || fReserved x) i s s3 (
    let ends (res : FResult w) (u : State) : Prop :=
      FloatEnds i res false false s (u.withRegs (regs res.r (a + BitVec.ofNat 32 (w / 8 * (d.toNat + 1))))) ∧
      u.pc = s.pc + BitVec.ofNat 32 i.length ∧ Kept false false (rPC :: [arg, degree, tbladdr].flatMap Spec.stepped) s u
    (∀ (u : State) (c : BitVec w) (cs : List (BitVec w)) (r : BitVec w) (under : Bool),
      readTable w (d.toNat + 1) a s3 = .ok (c :: cs) u → (∀ k ∈ c :: cs, fReserved k = false) →
      horner (fVal x) c false cs = some (r, under) → ends ⟨r, if under then .underflow else .none⟩ u) ∧
    (∀ (u v : State) (cs : List (BitVec w)) (k : Nat), cs.length ≤ d.toNat →
      readTable w cs.length a s3 = .ok cs u → GoesOn (fVal x) cs →
      memReadN (a + BitVec.ofNat 32 (w / 8 * cs.length)) (w / 8) u = .ok k v →
        (fReserved (BitVec.ofNat w k) = true → Faults 0x18 [] s v (exec i s)) ∧
        (∀ c rest, cs = c :: rest → fReserved (BitVec.ofNat w k) = false →
          horner (fVal x) c false (rest ++ [BitVec.ofNat w k]) = none → ends ⟨BitVec.ofNat w 0x8000, .overflow⟩ v)))

/-- limit.r, add.r, index.m, displ.bw (R649). -/
def FloatAddCompares (w : Nat) (mk : Spec → Spec → Spec → BitVec 16 → Instr) : Prop :=
  ∀ (limit add idx : Spec) (displ : BitVec 16) (s s1 : State) (lim : BitVec w),
  rawFloat w limit s.opened = .ok lim s1 → SpecFaults (rawFloat w add) (mk limit add idx displ) s s1 ∧
  ∀ (s2 : State) (a : BitVec w), rawFloat w add s1 = .ok a s2 → SpecFaults (rawModifyFloat w idx) (mk limit add idx displ) s s2 ∧
  ∀ (s3 : State) (i : BitVec w) (l : Loc), rawModifyFloat w idx s2 = .ok (l, i) s3 →
  let u := s3.setPc (s3.pc + 2)
  Checked (fReserved lim || fReserved a || fReserved i) (mk limit add idx displ) s u (∀ t : State,
    let x := fStore w ((fVal i).add (fVal a))
    let r := fVal x.r
    let taken := x.event != .overflow &&
      if (fVal a).m < 0 then !r.lt (fVal lim) else r.lt (fVal lim) || r.eq (fVal lim)
    storeFloat l x.r u = .ok () t →
      FloatEnds (mk limit add idx displ) x s.cc.c true s (t.branch taken (t.pc + displ.signExtend 32)) ∧
      t.pc = s.pc + BitVec.ofNat 32 (mk limit add idx displ).length ∧
      Kept false l.writes (rPC :: [limit, add, idx].flatMap Spec.stepped ++ l.regs w) s t ∧ Stored l x.r s u t)

/-- The magnitude of a value. -/
def FVal.mag (a : FVal) : FVal := ⟨a.m.natAbs, a.e⟩

/-- The magnitude from which a value of p significant bits rounds to 2 to the e. -/
def roundsTo (p : Nat) (e : Int) : FVal := ⟨((2 ^ (p + 1) - 1 : Nat) : Int), e - ((p + 1 : Nat) : Int)⟩

/-- A value differs from a datum by at most half the spacing of the data next to the datum on its side, and is the smaller in
magnitude where it lies half way (R602). The data below a power of two (2 to the p - 1 as a significand of p bits) are half as
far apart as those above. -/
def FVal.Nearest (p : Nat) (v d : FVal) : Prop :=
  let off := (v.sub d).mag
  let gap : FVal := if v.mag.lt d.mag && d.m.natAbs == 2 ^ (p - 1) then ⟨1, d.e - 2⟩ else ⟨1, d.e - 1⟩
  gap.lt off = false ∧ (gap.eq off = true → v.mag.lt d.mag = true)

/-- The stored result x is the value v rounded to the nearest datum, a tie away from zero; overflow and underflow are met
where the rounded magnitude is out of range (R602). -/
structure Rounds {w : Nat} (v : FVal) (x : FResult w) : Prop where
  zero : v.m = 0 → x = ⟨0, .none⟩
  overflow : v.m ≠ 0 → (x.event = .overflow ↔ !v.mag.lt (roundsTo (w - 8) 127))
  underflow : v.m ≠ 0 → (x.event = .underflow ↔ v.mag.lt (roundsTo (w - 8) (-128)))
  reserved : x.event = .overflow → x.r = BitVec.ofNat w 0x8000
  small : x.event = .underflow → x.r = 0
  near : v.m ≠ 0 → x.event ≠ .overflow → x.event ≠ .underflow → x.event = .none ∧ fReserved x.r = false ∧
    (fVal x.r).m ≠ 0 ∧ ((fVal x.r).m < 0 ↔ v.m < 0) ∧ FVal.Nearest (w - 8) v (fVal x.r)

/-- A datum d of p significant bits is the nearest to the quotient of a by b, in the sense of FVal.Nearest: the distances of
FVal.Nearest times the divisor's magnitude. -/
def FVal.NearestQuotient (p : Nat) (a b d : FVal) : Prop :=
  let off := (a.sub (d.mul b)).mag
  let below := a.mag.lt (d.mul b).mag
  let gap : FVal := if below && d.m.natAbs == 2 ^ (p - 1) then ⟨1, d.e - 2⟩ else ⟨1, d.e - 1⟩
  (gap.mul b.mag).lt off = false ∧ ((gap.mul b.mag).eq off = true → below = true)

/-- The stored result x is the quotient of a by b, not zero, rounded as Rounds says of a value: the quotient is no dyadic fraction
in general, so that its magnitude is compared times the divisor's (R602). -/
structure RoundsQuotient {w : Nat} (a b : FVal) (x : FResult w) : Prop where
  zero : a.m = 0 → x = ⟨0, .none⟩
  overflow : a.m ≠ 0 → (x.event = .overflow ↔ !a.mag.lt ((roundsTo (w - 8) 127).mul b.mag))
  underflow : a.m ≠ 0 → (x.event = .underflow ↔ a.mag.lt ((roundsTo (w - 8) (-128)).mul b.mag))
  reserved : x.event = .overflow → x.r = BitVec.ofNat w 0x8000
  small : x.event = .underflow → x.r = 0
  near : a.m ≠ 0 → x.event ≠ .overflow → x.event ≠ .underflow → x.event = .none ∧ fReserved x.r = false ∧
    (fVal x.r).m ≠ 0 ∧ ((fVal x.r).m < 0 ↔ a.m * b.m < 0) ∧ FVal.NearestQuotient (w - 8) a b (fVal x.r)

/-! ### Strings -/

/-- Bytes stored one after another at a virtual address, nothing else changed. -/
def BytesStored : Word → List Byte → State → State → Prop
  | _, [], u, t => t = u
  | d, b :: bs, u, t => ∃ v, Kept false true [] u v ∧ Stored (.mem d) b u u v ∧ BytesStored (d + 1) bs v t

/-- A destination string checked, then stored (45_string_decimal.md R670). -/
def StringPut (d : Word) (bs : List Byte) (u t : State) : Prop :=
  ∃ v, Kept false true [] u v ∧ Quiet u v ∧ BytesStored d bs v t

/-- What a string instruction i with specifiers sps does between s, in which it is run, and u, in which its sources have been
read: nothing but the stepping of registers. -/
structure Fetched (i : Instr) (sps : List Spec) (s u : State) : Prop where
  pc : u.pc = s.pc + BitVec.ofNat 32 i.length
  frame : Kept false false (rPC :: sps.flatMap Spec.stepped) s u

/-- A number as a longword. -/
abbrev num (n : Nat) : Word := BitVec.ofNat 32 n

/-- len.rw, addr.ab, tbladdr.ab, mask.rb: k bytes are passed over before the stop (R676, R677). -/
def Scans (mk : Spec → Spec → Spec → Spec → Instr) (want : Bool) : Prop :=
  ∀ (len addr tbl mask : Spec) (s s1 s2 s3 s4 t : State) (n : BitVec 16) (a tb : Word) (m : Byte) (k : Nat),
    readLen len s.opened = .ok n s1 → stringAddr addr s1 = .ok a s2 → stringAddr tbl s2 = .ok tb s3 →
    readInt 8 false mask s3 = .ok m s4 →
    passOver (fun b => (fun e => (e &&& m != 0) == want) <$> memReadByte (tb + num b.toNat)) n.toNat a s4 = .ok k t →
      k ≤ n.toNat ∧ Fetched (mk len addr tbl mask) [len, addr, tbl, mask] s t ∧
      exec (mk len addr tbl mask) s =
        .next ((t.withRegs [(0, num (n.toNat - k)), (1, a + num k), (2, 0), (3, tb)]).setCC
          ⟨false, decide (k = n.toNat), false, false⟩)

/-- char.rb, len.rw, addr.ab (R678, R679). -/
def Locates (mk : Spec → Spec → Spec → Instr) (want : Bool) : Prop :=
  ∀ (char len addr : Spec) (s s1 s2 s3 t : State) (c : Byte) (n : BitVec 16) (a : Word) (k : Nat),
    readInt 8 false char s.opened = .ok c s1 → readLen len s1 = .ok n s2 → stringAddr addr s2 = .ok a s3 →
    passOver (fun b => pure ((b == c) == want)) n.toNat a s3 = .ok k t →
      k ≤ n.toNat ∧ Fetched (mk char len addr) [char, len, addr] s t ∧
      exec (mk char len addr) s =
        .next ((t.withRegs [(0, num (n.toNat - k)), (1, a + num k)]).setCC ⟨false, decide (k = n.toNat), false, false⟩)

/-- The state and condition codes after two strings are compared: k leading bytes were equal, p is the pair that differs
(R674). -/
def comparedStrings (n1 n2 : Nat) (a1 a2 : Word) (k : Nat) (p : Option (Byte × Byte)) (t : State) : State :=
  (t.withRegs [(0, num (n1 - k)), (1, a1 + num (min k n1)), (2, num (n2 - k)), (3, a2 + num (min k n2))]).setCC
    (match p with
      | none => ⟨false, true, false, false⟩
      | some (x, y) => wantCompare x y)

/-- A byte of main memory at a virtual address with memory management off. -/
def State.plainByte (s : State) (va : Word) : Option Byte :=
  if unmappedPa va < ioBase then s.memByte (unmappedPa va) else none

/-- A longword of main memory at a virtual address with memory management off. -/
def State.plainLong (s : State) (va : Word) : Option Word :=
  match s.plainByte va, s.plainByte (va + 1), s.plainByte (va + 2), s.plainByte (va + 3) with
  | some a, some b, some c, some d => some (d ++ c ++ b ++ a)
  | _, _, _, _ => none

/-- The CRC of a byte taken into tmp, through a table of 16 longwords (R683). -/
def crcByte (f : Nat → Word) (tmp : Word) (b : Byte) : Word :=
  let x := tmp ^^^ b.setWidth 32
  let y := (x >>> 4) ^^^ f (x.toNat % 16)
  (y >>> 4) ^^^ f (y.toNat % 16)

/-- The list of bytes as a little-endian number. -/
def littleEndian : List Byte → Nat
  | [] => 0
  | b :: bs => b.toNat + 256 * littleEndian bs

/-! ### Decimal strings -/

/-- The number of n decimal digits, the most significant first: f k is digit k. -/
def decimalSum (f : Nat → Nat) : Nat → Nat
  | 0 => 0
  | k + 1 => 10 * decimalSum f k + f k

/-- Half byte k of a string, the high half of each byte first. -/
def nibbleAt (bs : List Byte) (k : Nat) : Nat :=
  let b := (bs.getD (k / 2) 0).toNat
  if k % 2 = 0 then b / 16 else b % 16

/-- Bytes stored in order at their addresses, and nothing else changed. -/
def OutStored : List (Word × Byte) → State → State → Prop
  | [], u, t => t = u
  | (a, b) :: rest, u, t => ∃ x, Kept false true [] u x ∧ Stored (.mem a) b u u x ∧ OutStored rest x t

/-- The bytes l are those that an edit to d put, latest first in out: at each address the byte last put there, once, in ascending
order from the lowest address an operator can reach (45_string_decimal.md R670, R704). -/
structure LastPut (d : Word) (out l : List (Word × Byte)) : Prop where
  last : ∀ x, x ∈ l ↔ out.find? (fun y => decide (y.1 = x.1)) = some x
  ascending : l.Pairwise fun x y => (x.1 - (d - 255)).toNat < (y.1 - (d - 255)).toNat

/-- How a decimal instruction ends: V traps with code 6 when DV enables it (R685). -/
structure DecimalEnds (i : Instr) (f : CC) (s t : State) : Prop where
  next : f.v = false ∨ s.pslBit pslDV = false → exec i s = .next (t.setCC f)
  trap : f.v = true → s.pslBit pslDV = true → Traps 6 (t.setCC f) (exec i s)

/-- The condition codes of a value stored in n digits (R685). -/
def decimalCC (n : Nat) (x : Int) : CC :=
  let mag := x.natAbs % 10 ^ n
  ⟨decide (x < 0 ∧ mag ≠ 0), decide (mag = 0), decide (10 ^ n ≤ x.natAbs), false⟩

/-- A value stored in n digits has a minus sign (R685). -/
def decimalMinus (n : Nat) (x : Int) : Bool := decide (x < 0 ∧ (x.natAbs % 10 ^ n ≠ 0 ∨ 10 ^ n ≤ x.natAbs))

/-- The packed bytes of a value stored in n digits (R685). -/
def wantPacked (n : Nat) (x : Int) : List Byte := packDecimal n (x.natAbs % 10 ^ n) (decimalMinus n x)

/-- The packed destination of n digits at d shares bytes with the packed source of k digits at a, the two not being the same
operand (R685). -/
def Apart (d : Word) (n : BitVec 16) (a : Word) (k : BitVec 16) : Prop :=
  (d = a ∧ n = k) ∨ overlap d (n.toNat / 2 + 1) a (k.toNat / 2 + 1) = false

/-- Two pairs of len.rw and addr.ab, the second source and destination; a length above 31 faults before any string is read (R684). -/
def Packed4 (mk : Spec → Spec → Spec → Spec → Instr) (f : Int → Int → Int) : Prop :=
  (∀ (l1 d1 l2 d2 : Spec) (s s1 : State) (o : PackedOps), packedOps4 l1 d1 l2 d2 s.opened = .ok o s1 →
    31 < o.n1.toNat ∨ 31 < o.n2.toNat → Faults 0x18 [] s s1 (exec (mk l1 d1 l2 d2) s)) ∧
  ∀ (l1 d1 l2 d2 : Spec) (s s1 s2 u t : State) (o : PackedOps) (x y : Int),
    packedOps4 l1 d1 l2 d2 s.opened = .ok o s1 → o.n1.toNat ≤ 31 → o.n2.toNat ≤ 31 →
    packedValue o.n1 o.a1 s1 = .ok (some x) s2 → packedValue o.n2 o.a2 s2 = .ok (some y) u → Apart o.a2 o.n2 o.a1 o.n1 →
    putString o.a2 (wantPacked o.n2.toNat (f x y)) u = .ok () t →
      DecimalEnds (mk l1 d1 l2 d2) (decimalCC o.n2.toNat (f x y)) s
        (t.withRegs [(0, 0), (1, o.a1), (2, 0), (3, o.a2)]) ∧
      Fetched (mk l1 d1 l2 d2) [l1, d1, l2, d2] s u ∧ StringPut o.a2 (wantPacked o.n2.toNat (f x y)) u t

/-- Three pairs of len.rw and addr.ab, the third the destination; f takes the values of the first and the second; a length above
31 faults before any string is read (R684). -/
def Packed6 (mk : Spec → Spec → Spec → Spec → Spec → Spec → Instr) (ok : Int → Bool) (f : Int → Int → Int) : Prop :=
  (∀ (l1 d1 l2 d2 l3 d3 : Spec) (s s1 : State) (o : PackedOps), packedOps6 l1 d1 l2 d2 l3 d3 s.opened = .ok o s1 →
    31 < o.n1.toNat ∨ 31 < o.n2.toNat ∨ 31 < o.nd.toNat → Faults 0x18 [] s s1 (exec (mk l1 d1 l2 d2 l3 d3) s)) ∧
  ∀ (l1 d1 l2 d2 l3 d3 : Spec) (s s1 s2 u t : State) (o : PackedOps) (x y : Int),
    packedOps6 l1 d1 l2 d2 l3 d3 s.opened = .ok o s1 → o.n1.toNat ≤ 31 → o.n2.toNat ≤ 31 → o.nd.toNat ≤ 31 →
    packedValue o.n1 o.a1 s1 = .ok (some x) s2 → packedValue o.n2 o.a2 s2 = .ok (some y) u → ok x = true →
    Apart o.d o.nd o.a1 o.n1 → Apart o.d o.nd o.a2 o.n2 → putString o.d (wantPacked o.nd.toNat (f x y)) u = .ok () t →
      DecimalEnds (mk l1 d1 l2 d2 l3 d3) (decimalCC o.nd.toNat (f x y)) s
        (t.withRegs [(0, 0), (1, o.a1), (2, 0), (3, o.a2), (4, 0), (5, o.d)]) ∧
      Fetched (mk l1 d1 l2 d2 l3 d3) [l1, d1, l2, d2, l3, d3] s u ∧ StringPut o.d (wantPacked o.nd.toNat (f x y)) u t


/-! ### The machine's step -/

/-- Bit 2 of a memory-management fault parameter: the intended access was a write (20_memory.md R187). -/
def writeBit (write : Bool) : Word := if write then 4 else 0

/-- The CPU is about to execute an instruction: it runs, and no halt, interrupt or trace is due (60_exceptions.md R1232). -/
structure Ready (s : State) : Prop where
  agenda : s.agenda = []
  running : s.run.halted = false
  clock : s.console.clockStopped = false
  noHalt : s.run.haltReq = false ∧ s.run.stepsLeft ≠ some 0
  noInterrupt : s.pendingInterrupt = none
  noTrace : s.pslBit pslTP = false
  native : s.pslBit pslCM = false

/-- The state in which an instruction is fetched: one of the console's single steps is used up, and T is copied to TP
(R1216, R1232). -/
def State.fetching (s : State) : State :=
  { s with
    psl := if s.pslBit pslT then s.psl ||| 0x40000000 else s.psl
    run := { s.run with stepsLeft := s.run.stepsLeft.map (· - 1) } }

/-- A PSL the CPU may hold in native mode: CM and the must-be-zero bits clear, kernel mode on the interrupt stack and at an
elevated IPL, and a previous mode no more privileged than the current one (10_state.md R52; 60_exceptions.md R1195;
42_control.md R500). -/
structure PslLegal (p : Word) : Prop where
  mbz : p.getLsbD 31 = false ∧ (p.extractLsb' 28 2).toNat = 0 ∧ p.getLsbD 21 = false ∧ (p.extractLsb' 8 8).toNat = 0
  interruptStack : p.getLsbD 26 = true → (p.extractLsb' 24 2).toNat = 0
  elevated : (p.extractLsb' 16 5).toNat ≠ 0 → (p.extractLsb' 24 2).toNat = 0
  previous : (p.extractLsb' 24 2).toNat ≤ (p.extractLsb' 22 2).toNat

/-- The processor registers hold values they take: addresses in 30 bits, aligned, and the rest of R61 to R72. -/
structure IprLegal (r : Ipr) : Prop where
  sbr : r.sbr.toNat < 2 ^ 30 ∧ r.sbr.toNat % 4 = 0
  pcbb : r.pcbb.toNat < 2 ^ 30 ∧ r.pcbb.toNat % 4 = 0
  scbb : r.scbb.toNat < 2 ^ 30 ∧ r.scbb.toNat % 512 = 0
  bases : r.p0br.toNat % 4 = 0 ∧ r.p1br.toNat % 4 = 0
  astlvl : r.astlvl.toNat < 5
  sisr : r.sisr.getLsbD 0 = false

/-- The modes, counted from kernel, that may read and write a page of a protection code (20_memory.md R172). Code 1 is
reserved. -/
def protModes (code : Nat) : Nat × Nat :=
  [(0, 0), (0, 0), (1, 1), (1, 0), (4, 4), (2, 2), (2, 1), (2, 0), (3, 3), (3, 2), (3, 1), (3, 0), (4, 3), (4, 2), (4, 1),
    (4, 0)].getD code (0, 0)

/-- A mode may access a page of a protection code. -/
def modeMay (code : Nat) (mode : Mode) (write : Bool) : Bool :=
  decide (mode.toNat < if write then (protModes code).2 else (protModes code).1)

/-- The protection code, the validity and the page frame of a PTE (R171). -/
def pteCode (pte : Word) : Nat := pte.toNat / 2 ^ 27 % 16

/-- An address outside the length of its region (R174). -/
def outsideRegion (r : Ipr) (va : Word) : Bool :=
  let page := va.toNat / 512 % 2 ^ 21
  if va.toNat / 2 ^ 30 = 0 then decide (r.p0lr.toNat ≤ page)
  else if va.toNat / 2 ^ 30 = 1 then decide (page < r.p1lr.toNat)
  else if va.toNat / 2 ^ 30 = 2 then decide (r.slr.toNat ≤ page)
  else true

/-- Where the system PTE of a system virtual address stands (R181). -/
def systemPteAt (r : Ipr) (va : Word) : Nat := (r.sbr.toNat + 4 * (va.toNat / 512 % 2 ^ 21)) % 2 ^ 30

/-- The system virtual address of the PTE of an address of a process region (R182, R183). -/
def processPteVa (r : Ipr) (va : Word) : Word :=
  (if va.toNat / 2 ^ 30 = 0 then r.p0br else r.p1br) + BitVec.ofNat 32 (4 * (va.toNat / 512 % 2 ^ 21))

/-- The page table page of a process PTE lies outside the system page table (R184, D16). -/
def outsideTable (r : Ipr) (va : Word) : Bool :=
  decide ((processPteVa r va).toNat / 2 ^ 30 ≠ 2) || decide (r.slr.toNat ≤ (processPteVa r va).toNat / 512 % 2 ^ 21)

/-- A PTE that the translation buffer may hold for the page of va: one used since an invalidation, or one that stood there before
a change of the tables since (70_reset_and_hazards.md R1281; log 8). -/
def MayBeBuffered (s : State) (va : Word) (e : TbEntry) : Prop :=
  (e ∈ s.tb ∧ e.vpn.toNat = va.toNat / 512) ∨ e ∈ oldPtes va s s.mapLog

/-- Memory, free of errors, holds the PTE pte of the page of va at physical address at_, and the translation buffer no other PTE of
that page. -/
def Held (s : State) (va pte : Word) (at_ : Nat) (sys : Option Nat) : Prop :=
  s.errs.memory = [] ∧ s.memLong at_ = some pte ∧ ∀ e, MayBeBuffered s va e → e.pte = pte ∧ e.at_ = at_ ∧ e.sys = sys

/-- The translation buffer holds no PTE of the page of va. -/
def Unbuffered (s : State) (va : Word) : Prop := ∀ e, ¬MayBeBuffered s va e

/-- A system PTE that maps a process page table the kernel may read: valid, of any code but 0 and the reserved 1 (R184). -/
abbrev TableReadable (spte : Word) : Prop := pteCode spte ≠ 0 ∧ pteCode spte ≠ 1 ∧ spte.getLsbD 31 = true

/-- What a probe of va for a mode finds in the tables in memory: whether the mode may access the byte, by the length of its
region and its protection code, whatever the PTE's valid bit; or none, where the page table page is not valid (R188;
40_privileged.md R327). -/
inductive ProbeFinds (s : State) (va : Word) (write : Bool) (mode : Mode) : Option Bool → Prop where
  | off : s.ipr.mapen = false → ProbeFinds s va write mode (some true)
  | outside : s.ipr.mapen = true → outsideRegion s.ipr va = true → ProbeFinds s va write mode (some false)
  | system (pte : Word) : s.ipr.mapen = true → outsideRegion s.ipr va = false → va.toNat / 2 ^ 30 = 2 →
      Held s va pte (systemPteAt s.ipr va) none → pteCode pte ≠ 1 →
      ProbeFinds s va write mode (some (modeMay (pteCode pte) mode write))
  | noTable : s.ipr.mapen = true → outsideRegion s.ipr va = false → va.toNat / 2 ^ 30 < 2 → Unbuffered s va →
      outsideTable s.ipr va = true → ProbeFinds s va write mode (some false)
  | tableKept (spte : Word) : s.ipr.mapen = true → outsideRegion s.ipr va = false → va.toNat / 2 ^ 30 < 2 →
      Unbuffered s va → outsideTable s.ipr va = false →
      Held s (processPteVa s.ipr va) spte (systemPteAt s.ipr (processPteVa s.ipr va)) none → pteCode spte = 0 →
      ProbeFinds s va write mode (some false)
  | tableInvalid (spte : Word) : s.ipr.mapen = true → outsideRegion s.ipr va = false → va.toNat / 2 ^ 30 < 2 →
      Unbuffered s va → outsideTable s.ipr va = false →
      Held s (processPteVa s.ipr va) spte (systemPteAt s.ipr (processPteVa s.ipr va)) none → pteCode spte ≠ 0 →
      pteCode spte ≠ 1 → spte.getLsbD 31 = false → ProbeFinds s va write mode none
  | process (spte pte : Word) : s.ipr.mapen = true → outsideRegion s.ipr va = false → va.toNat / 2 ^ 30 < 2 →
      outsideTable s.ipr va = false →
      Held s (processPteVa s.ipr va) spte (systemPteAt s.ipr (processPteVa s.ipr va)) none → TableReadable spte →
      Held s va pte (spte.toNat % 2 ^ 21 * 512 + (processPteVa s.ipr va).toNat % 512)
        (some (systemPteAt s.ipr (processPteVa s.ipr va))) → pteCode pte ≠ 1 →
      ProbeFinds s va write mode (some (modeMay (pteCode pte) mode write))

/-- What probe answers is what it finds; a write probe may set a modify bit, and nothing else of memory changes (R186, R188;
log 17). -/
def ProbeAnswers (io : Bool) (s : State) (va : Word) (write : Bool) (mode : Mode) : Prop :=
  (∀ b, ProbeFinds s va write mode (some b) →
    ∃ t, probe io va write mode s = .ok b t ∧ Kept false write [] s t ∧ Quiet s t) ∧
  (ProbeFinds s va write mode none →
    ∃ t, probe io va write mode s = .error (.fault 0x24 [va, 2 + writeBit write]) t ∧ Kept false false [] s t)

/-- mode.rb, len.rw, base.ab: the two end bytes probed in the less privileged of the mode operand and the previous mode
(R327), whatever probe answers; then, by what the tables hold, with the memory in canonical form and the processor registers
legal: the answer, or the fault. -/
def Probes (write : Bool) (mk : Spec → Spec → Spec → Instr) : Prop :=
  ∀ (mode len base : Spec) (s s1 s2 u : State) (m : Byte) (n : BitVec 16) (a : Word),
    readOp 8 mode true s.opened = .ok m s1 → readOp 16 len true s1 = .ok n s2 → addressOp .b true base s2 = .ok a u →
    let pm := BitVec.ofNat 2 (max (m.toNat % 4) s.prv.toNat)
    let last := a + BitVec.ofNat 32 n.toNat - 1
    let i := mk mode len base
    u.pc = s.pc + BitVec.ofNat 32 i.length ∧ Kept true false (rPC :: [mode, len, base].flatMap Spec.stepped) s u ∧
    (∀ b1 b2 v t, probe true a write pm u = .ok b1 v → probe true last write pm v = .ok b2 t →
      exec i s = .next (t.setCC ⟨false, !(b1 && b2), false, false⟩) ∧ Kept true write [] u t ∧
      (probe false a write pm u = .ok b1 v → probe false last write pm v = .ok b2 t → Kept false write [] u t ∧ Quiet u t)) ∧
    (Memory.wf s.mem = true → IprLegal s.ipr →
      (∀ b1 b2, ProbeFinds u a write pm (some b1) → ProbeFinds u last write pm (some b2) →
        ∃ t, exec i s = .next (t.setCC ⟨false, !(b1 && b2), false, false⟩) ∧ Kept false write [] u t ∧ Quiet u t) ∧
      (ProbeFinds u a write pm none →
        ∃ t, Faults 0x24 [a, 2 + writeBit write] s t (exec i s) ∧ Kept false false [] u t) ∧
      (∀ b, ProbeFinds u a write pm (some b) → ProbeFinds u last write pm none →
        ∃ t, Faults 0x24 [last, 2 + writeBit write] s t (exec i s) ∧ Kept false write [] u t ∧ Quiet u t))

/-- A reference to va meets the PTE pte, which stands in main memory at physical address at, once it is found: the access check,
then validity, then the modify bit (R180 steps 3 and 4); io: the reference is one that may be made in I/O space. sys: where the system PTE of a process PTE's page table page stands; its
modify bit may be set too (R184). -/
def MeetsPte (io : Bool) (s : State) (va : Word) (write : Bool) (mode : Mode) (pte : Word) (at_ : Nat) (sys : Option Nat) : Prop :=
  let pa := pte.toNat % 2 ^ 21 * 512 + va.toNat % 512
  (modeMay (pteCode pte) mode write = false →
    ∃ t, translate io va write mode s = .error (.fault 0x20 [va, writeBit write]) t ∧ Kept false false [] s t) ∧
  (modeMay (pteCode pte) mode write = true → pte.getLsbD 31 = false →
    ∃ t, translate io va write mode s = .error (.fault 0x24 [va, writeBit write]) t ∧ Kept false false [] s t) ∧
  (modeMay (pteCode pte) mode write = true → pte.getLsbD 31 = true → (write = false ∨ pte.getLsbD 26 = true) →
    ∃ t, translate io va write mode s = .ok pa t ∧ Kept false false [] s t) ∧
  (modeMay (pteCode pte) mode write = true → pte.getLsbD 31 = true → write = true → pte.getLsbD 26 = false →
    ∃ t, translate io va write mode s = .ok pa t ∧ Kept false true [] s t ∧
      (Memory.wf s.mem = true → IprLegal s.ipr → t.memLong at_ = some (pte ||| 0x04000000)) ∧
      (Memory.wf s.mem = true → ∀ x, x < at_ ∨ at_ + 4 ≤ x → t.memByte x = s.memByte x ∨
        (sys.map (· + 3) = some x ∧ ∃ b, s.memByte x = some b ∧ t.memByte x = some (b ||| 4))))

/-! ### MASSBUS adapters -/

/-- Longword references of the CPU to the registers of adapter n, memory management off (66_mba.md R1003): what reads bring and
writes change of CSR (R1010), CR (R1011), SR (R1012), VAR (R1013), BCR (R1014), the map (R1017) and SMR (R1016), a busy adapter
keeping VAR, BCR and the map and telling it by PGE; a register of a drive that is not there (R1031). -/
def MassbusRegisters : Prop :=
  ∀ (s : State) (n : Nat) (c : Config.Mba) (m : MbaState) (va v : Word) (off : Nat),
    s.ipr.mapen = false → va.toNat % 4 = 0 → ioBase ≤ va.toNat % 2 ^ 30 →
    s.responder (va.toNat % 2 ^ 30) = some (.mba n c m, off) →
    let reads (w : Word) : Prop := loadVirtIn s.cur true false false va 4 s = .ok w.toNat s
    let writes (y : MbaState) : Prop := storeVirtIn s.cur true false va 4 v.toNat s = .ok () (s.setMba n y)
    let busy := m.sr.getLsbD 31
    (off = 0 → reads ((if m.pd then 0x800000 else 0) + (if m.pu then 0x400000 else 0) + 0x20) ∧
      writes { m with pd := m.pd && !v.getLsbD 23, pu := m.pu && !v.getLsbD 22 }) ∧
    (off = 4 → reads ((if m.ie then 4 else 0) + (if m.abort then 2 else 0)) ∧
      (v.getLsbD 3 = false → v.getLsbD 0 = false → ∃ a,
        writes { m with ie := v.getLsbD 2, abort := v.getLsbD 1, aborting := a } ∧
        (busy = true → v.getLsbD 1 = true → a = true)) ∧
      (v.getLsbD 3 = false → v.getLsbD 0 = true → ∃ y : MbaState,
        storeVirtIn s.cur true false va 4 v.toNat s = .ok () ((s.setMba n y).emit (.massbusInit n)) ∧
        y.pd = false ∧ y.pu = false ∧ y.ie = false ∧ y.abort = false ∧ y.sr = 0 ∧ y.bcr = 0 ∧ y.commanded = none ∧
        y.transfer = none ∧ y.map = m.map ∧ y.var = m.var)) ∧
    (off = 8 → (m.sr.getLsbD 16 = false → reads (m.sr ||| (if m.attn = 0 then 0 else 0x10000))) ∧
      writes { m with sr := m.sr &&& ~~~(v &&& 0x600E3FFF) }) ∧
    (off = 0xC → reads (m.var.setWidth 32) ∧ (busy = false → writes { m with var := v.setWidth 17 })) ∧
    (off = 0x10 → busy = false → reads m.bcr ∧ writes { m with bcr := v.setWidth 16 ++ (v.setWidth 16 : BitVec 16) }) ∧
    (off = 0x18 → busy = true → reads (sparseRead m.map (m.var.toNat / 512))) ∧
    (0x400 ≤ off → off < 0x800 →
      (∀ d ∈ c.drives, ¬(d.unit = (off - 0x400) / 128 ∧ off / 4 % 32 ∈ d.regs)) →
        loadVirtIn s.cur true false false va 4 s = .ok 0 (s.setMba n { m with sr := m.sr ||| 0x40000 }) ∧
        writes { m with sr := m.sr ||| 0x40000 }) ∧
    (0x800 ≤ off → off < 0xC00 → reads (sparseRead m.map ((off - 0x800) / 4)) ∧
      (busy = false → ∃ l, writes { m with map := l } ∧
        ∀ i, sparseRead l i = if i = (off - 0x800) / 4 then v &&& 0x801FFFFF else sparseRead m.map i)) ∧
    (busy = true → off = 0xC ∨ off = 0x10 ∨ (0x800 ≤ off ∧ off < 0xC00) → writes { m with sr := m.sr ||| 0x80000 })

/-- A data transfer of MASSBUS adapter n, in memory without errors (66_mba.md R1002, R1012 to R1014, R1041): it starts when the drive
takes its command; a quadword of memory, through the map register VAR selects, goes into the silo or comes from it, VAR and the
counter 31:16 moving on, an invalid map register aborting it; words go between the silo and the drive, low-order byte first, and are
compared in a write check; it ends at the end of a sector, by ABORT or with all its bytes moved. -/
def MassbusTransfers : Prop :=
  ∀ (s : State) (rest : List Turn) (n : Nat) (c : Config.Mba) (m : MbaState) (k : Config.MbaTransfer),
    s.cfg.mbas[n]? = some c → s.bus.mbas[n]? = some m →
    let becomes (y : MbaState) : Prop := step s = .next (State.setMba { s with agenda := rest } n y)
    let off := if m.first then m.var.toNat % 8 else 0
    let left := 65536 - m.bcr.toNat / 65536
    let count := min (8 - off) left
    let mr := sparseRead m.map (m.var.toNat / 512)
    let pa := mr.toNat % 2 ^ 21 * 512 + m.var.toNat % 512 / 8 * 8
    let moved (y : MbaState) : Prop :=
      y.var = m.var + 8 ∧ y.bcr.toNat % 65536 = m.bcr.toNat % 65536 ∧
      y.bcr.toNat / 65536 = (m.bcr.toNat / 65536 + count) % 65536 ∧ y.counted = decide (left = count) ∧
      y.first = false ∧ y.sr = m.sr ∧ y.transfer = m.transfer ∧ y.aborting = m.aborting
    (s.agenda = .massbus n .start :: rest → m.sr.getLsbD 31 = false → m.commanded = some k → ∃ y, becomes y ∧
      y.sr = m.sr ||| 0x80000000 ∧ y.transfer = some k ∧ y.first = true ∧ (m.abort = false → y.aborting = false) ∧ y.silo = [] ∧
      y.counted = false ∧ y.massCounted = false ∧ y.var = m.var ∧ y.bcr = m.bcr ∧ y.map = m.map) ∧
    (s.agenda = .massbus n .quadword :: rest → m.transfer = some k → m.aborting = false → m.counted = false →
      (mr.getLsbD 31 = false → becomes { m with sr := m.sr ||| 0x10, aborting := true }) ∧
      (mr.getLsbD 31 = true → s.errs.memory = [] → (∀ i, i < 8 → (s.memByte (pa + i)).isSome = true) →
        (∀ bs : List Byte, k ≠ .read → m.silo.length ≤ 24 → bs.length = count →
          (∀ i (h : i < bs.length), s.memByte (pa + off + i) = some bs[i]) →
            ∃ y, becomes y ∧ moved y ∧ y.silo = m.silo ++ bs) ∧
        (k = .read → count ≤ m.silo.length → Memory.wf s.mem = true →
          ∃ t y, step s = .next t ∧ t.bus.mbas[n]? = some y ∧ moved y ∧ y.silo = m.silo.drop count ∧
            (∀ i, i < count → t.memByte (pa + off + i) = m.silo[i]?) ∧
            ∀ a, (∀ i, i < count → a ≠ pa + off + i) → t.memByte a = s.memByte a))) ∧
    (∀ w : BitVec 16, m.massCounted = false → m.bcr.toNat % 65536 + 2 ≤ 65536 → m.aborting = false →
      let lo : Byte := w.extractLsb' 0 8
      let hi : Byte := w.extractLsb' 8 8
      let counted (y : MbaState) : Prop :=
        y.bcr.toNat / 65536 = m.bcr.toNat / 65536 ∧ y.bcr.toNat % 65536 = (m.bcr.toNat + 2) % 65536 ∧
        y.massCounted = decide (m.bcr.toNat % 65536 = 65534) ∧ y.var = m.var ∧ y.transfer = m.transfer
      (s.agenda = .massbus n (.driveWord w) :: rest → m.transfer = some .read → m.silo.length ≤ 30 → ∃ y, becomes y ∧
        y.silo = m.silo ++ [lo, hi] ∧ counted y ∧ y.sr = m.sr ∧ y.aborting = false) ∧
      (∀ a b bs, s.agenda = .massbus n (.driveWord w) :: rest → m.transfer = some .writeCheck → m.silo = a :: b :: bs → ∃ y, becomes y ∧
        y.silo = bs ∧ counted y ∧ y.aborting = decide (a ≠ lo ∨ b ≠ hi) ∧
        y.sr = m.sr ||| (if a = lo then 0 else 0x200) ||| (if b = hi then 0 else 0x400)) ∧
      (∀ a b bs, s.agenda = .massbus n .driveTake :: rest → m.transfer = some .write → m.silo = a :: b :: bs → ∃ y,
        step s = .next ((State.setMba { s with agenda := rest } n y).emit (.driveData n (b ++ a))) ∧
        y.silo = bs ∧ counted y ∧ y.sr = m.sr ∧ y.aborting = false)) ∧
    (s.agenda = .massbus n .endOfBlock :: rest → m.transfer = some k →
      (m.aborting = true ∨ m.massCounted = true ∧ m.counted = true → ∃ y, becomes y ∧
        y.sr = (m.sr &&& 0x7FFFFFFF) ||| (if m.aborting then 0x3000 else 0x2000) ∧ y.transfer = none ∧ y.silo = []) ∧
      (m.aborting = false → m.massCounted = false → step s = .next { s with agenda := rest })) ∧
    (∀ level : Nat, m.requests c level = true ↔ level = c.level ∧ (m.pd = true ∨ m.pu = true ∨
      m.ie = true ∧ (m.attn ≠ 0 ∨ ∃ j ∈ [8, 12, 13, 16, 17, 18, 19], m.sr.getLsbD j = true)))

end Machine
end Sys2Proof
end

