-- ==== Sys2Proof/Certificates/Slice0/Obligations.lean ====
section
/-! DEFINITION. The statements for the provers. -/
open Sys2Proof Sys2Proof.Machine

/-! ### Integer instructions (41_integer.md) -/

/-- 41_integer.md R373 to R376, R378 to R381, R385 to R387: the source, its complement, or zero stored; C kept; a
cleared destination is not read. -/
def Obligations.MovesComplete : Prop :=
  (Unary 8 8 .movb wantMove ∧ Unary 16 16 .movw wantMove ∧ Unary 32 32 .movl wantMove ∧ Unary 64 64 .movq wantMove ∧
    Unary 8 8 .mcomb (fun a => wantMove (~~~a)) ∧ Unary 16 16 .mcomw (fun a => wantMove (~~~a)) ∧
    Unary 32 32 .mcoml (fun a => wantMove (~~~a))) ∧
  (Clears 8 .clrb ∧ Clears 16 .clrw ∧ Clears 32 .clrl ∧ Clears 64 .clrq)

/-- 41_integer.md R382 to R384, R388 to R396: negated, zero-extended and sign-converted values. -/
def Obligations.ConversionsComplete : Prop :=
  Unary 8 8 .mnegb (fun a _ => wantNegate a) ∧ Unary 16 16 .mnegw (fun a _ => wantNegate a) ∧
  Unary 32 32 .mnegl (fun a _ => wantNegate a) ∧
  Unary 8 16 .movzbw (wantZext 16) ∧ Unary 8 32 .movzbl (wantZext 32) ∧ Unary 16 32 .movzwl (wantZext 32) ∧
  Unary 8 16 .cvtbw (fun a _ => wantExact 16 a.toInt) ∧ Unary 8 32 .cvtbl (fun a _ => wantExact 32 a.toInt) ∧
  Unary 16 32 .cvtwl (fun a _ => wantExact 32 a.toInt) ∧ Unary 16 8 .cvtwb (fun a _ => wantExact 8 a.toInt) ∧
  Unary 32 8 .cvtlb (fun a _ => wantExact 8 a.toInt) ∧ Unary 32 16 .cvtlw (fun a _ => wantExact 16 a.toInt)

/-- 41_integer.md R397 to R405: nothing written but the condition codes. -/
def Obligations.ComparesComplete : Prop :=
  Compare2 8 .cmpb (fun a b _ => wantCompare a b) ∧ Compare2 16 .cmpw (fun a b _ => wantCompare a b) ∧
  Compare2 32 .cmpl (fun a b _ => wantCompare a b) ∧
  Test1 8 .tstb (nz · false false) ∧ Test1 16 .tstw (nz · false false) ∧ Test1 32 .tstl (nz · false false) ∧
  Compare2 8 .bitb (fun a b old => nz (b &&& a) false old.c) ∧
  Compare2 16 .bitw (fun a b old => nz (b &&& a) false old.c) ∧
  Compare2 32 .bitl (fun a b old => nz (b &&& a) false old.c)

/-- 41_integer.md R371, R406 to R419, R421 to R426: sums and differences. -/
def Obligations.SumsComplete : Prop :=
  Modify1 8 .incb (wantSum · 1 false) ∧ Modify1 16 .incw (wantSum · 1 false) ∧ Modify1 32 .incl (wantSum · 1 false) ∧
  Modify1 8 .decb (wantDifference · 1 false) ∧ Modify1 16 .decw (wantDifference · 1 false) ∧
  Modify1 32 .decl (wantDifference · 1 false) ∧
  Binary2 8 .addb2 (fun a b _ => wantSum b a false) ∧ Binary2 16 .addw2 (fun a b _ => wantSum b a false) ∧
  Binary2 32 .addl2 (fun a b _ => wantSum b a false) ∧
  Binary3 8 .addb3 (fun a b _ => wantSum a b false) ∧ Binary3 16 .addw3 (fun a b _ => wantSum a b false) ∧
  Binary3 32 .addl3 (fun a b _ => wantSum a b false) ∧
  Binary2 32 .adwc (fun a b old => wantSum b a old.c) ∧
  Binary2 32 .sbwc (fun a b old => wantDifference b a old.c) ∧
  Binary2 8 .subb2 (fun a b _ => wantDifference b a false) ∧ Binary2 16 .subw2 (fun a b _ => wantDifference b a false) ∧
  Binary2 32 .subl2 (fun a b _ => wantDifference b a false) ∧
  Binary3 8 .subb3 (fun a b _ => wantDifference b a false) ∧
  Binary3 16 .subw3 (fun a b _ => wantDifference b a false) ∧
  Binary3 32 .subl3 (fun a b _ => wantDifference b a false)

/-- 41_integer.md R427 to R432, R435 to R440: products and quotients; no operand lies in I/O space (20_memory.md R230). -/
def Obligations.ProductsComplete : Prop :=
  Binary2 8 .mulb2 (fun a b _ => wantExact 8 (b.toInt * a.toInt)) false ∧
  Binary2 16 .mulw2 (fun a b _ => wantExact 16 (b.toInt * a.toInt)) false ∧
  Binary2 32 .mull2 (fun a b _ => wantExact 32 (b.toInt * a.toInt)) false ∧
  Binary3 8 .mulb3 (fun a b _ => wantExact 8 (b.toInt * a.toInt)) false ∧
  Binary3 16 .mulw3 (fun a b _ => wantExact 16 (b.toInt * a.toInt)) false ∧
  Binary3 32 .mull3 (fun a b _ => wantExact 32 (b.toInt * a.toInt)) false ∧
  Binary2 8 .divb2 (fun a b _ => wantQuotient a b) false ∧ Binary2 16 .divw2 (fun a b _ => wantQuotient a b) false ∧
  Binary2 32 .divl2 (fun a b _ => wantQuotient a b) false ∧
  Binary3 8 .divb3 (fun a b _ => wantQuotient a b) false ∧ Binary3 16 .divw3 (fun a b _ => wantQuotient a b) false ∧
  Binary3 32 .divl3 (fun a b _ => wantQuotient a b) false

/-- 41_integer.md R441 to R458: bits set, cleared, and exclusive or; C kept. -/
def Obligations.LogicalsComplete : Prop :=
  Binary2 8 .bisb2 (fun a b => wantMove (b ||| a)) ∧ Binary2 16 .bisw2 (fun a b => wantMove (b ||| a)) ∧
  Binary2 32 .bisl2 (fun a b => wantMove (b ||| a)) ∧
  Binary3 8 .bisb3 (fun a b => wantMove (b ||| a)) ∧ Binary3 16 .bisw3 (fun a b => wantMove (b ||| a)) ∧
  Binary3 32 .bisl3 (fun a b => wantMove (b ||| a)) ∧
  Binary2 8 .bicb2 (fun a b => wantMove (b &&& ~~~a)) ∧ Binary2 16 .bicw2 (fun a b => wantMove (b &&& ~~~a)) ∧
  Binary2 32 .bicl2 (fun a b => wantMove (b &&& ~~~a)) ∧
  Binary3 8 .bicb3 (fun a b => wantMove (b &&& ~~~a)) ∧ Binary3 16 .bicw3 (fun a b => wantMove (b &&& ~~~a)) ∧
  Binary3 32 .bicl3 (fun a b => wantMove (b &&& ~~~a)) ∧
  Binary2 8 .xorb2 (fun a b => wantMove (b ^^^ a)) ∧ Binary2 16 .xorw2 (fun a b => wantMove (b ^^^ a)) ∧
  Binary2 32 .xorl2 (fun a b => wantMove (b ^^^ a)) ∧
  Binary3 8 .xorb3 (fun a b => wantMove (b ^^^ a)) ∧ Binary3 16 .xorw3 (fun a b => wantMove (b ^^^ a)) ∧
  Binary3 32 .xorl3 (fun a b => wantMove (b ^^^ a))

/-- 41_integer.md R459 to R461: arithmetic shifts and the rotation. -/
def Obligations.ShiftsComplete : Prop :=
  Shifts 32 .ashl (fun k a _ => wantShift k a) ∧ Shifts 64 .ashq (fun k a _ => wantShift k a) ∧
  Shifts 32 .rotl wantRotate

/-- 41_integer.md R377, R462 to R469: addresses stored, values and addresses pushed; the operand is evaluated before SP
moves. -/
def Obligations.AddressesComplete : Prop :=
  MovesAddress .b .movab ∧ MovesAddress .w .movaw ∧ MovesAddress .l .moval ∧ MovesAddress .q .movaq ∧
  PushesValue .pushl (readOp 32 ·) ∧ PushesValue .pushab (addressOp .b true) ∧ PushesValue .pushaw (addressOp .w true) ∧
  PushesValue .pushal (addressOp .l true) ∧ PushesValue .pushaq (addressOp .q true)

/-- 41_integer.md R420: a register's low word, or an aligned word in memory with the interlock free, added to; an odd address is
a reserved operand fault. The model's reading (20_memory.md R226, R232, D19, 64_memory_controller.md R870; logs 29 and 31):
it waits, TP cleared, while another agent holds the interlock, and is refused in I/O space other than a UNIBUS. That the add operand
may lie in any I/O space is the model's choice (log 22, DESIGN CHOICE): neither list of 20_memory.md R230 names ADAWI. -/
def Obligations.AdawiCompletes : Prop :=
  ∀ (add sum : Spec) (s s1 s2 : State) (a : BitVec 16) (l : Loc),
    readOp 16 add true s.opened = .ok a s1 → locate .modify .w true sum s1 = .ok l s2 →
    (∀ (n : Reg) (t : State) (b : BitVec 16), l = .reg n → b = (s2.reg n).setWidth 16 →
      storeBack l (wantSum b a false).r true s2 = .ok () t →
        Completed (.adawi add sum) true [add, sum] (wantSum b a false) l s s2 t) ∧
    (∀ (ea : Word) (u t : State) (b : BitVec 16), l = .mem ea → ea.toNat % 2 = 0 → s2.bus.intlk = false →
      loadInterlocked ea s2 = .ok b u → storeBack l (wantSum b a false).r true u = .ok () t →
        Completed (.adawi add sum) true [add, sum] (wantSum b a false) l s u t (l.mapped 16 s2)) ∧
    (∀ ea, l = .mem ea → ea.toNat % 2 = 0 → s2.bus.intlk = true → exec (.adawi add sum) s = .next s.clearTp) ∧
    (∀ ea pas v, l = .mem ea → ea.toNat % 2 = 0 → s2.bus.intlk = false → translateRange true ea 2 true s2.cur s2 = .ok pas v →
      (∃ pa ∈ pas, ioBase ≤ pa ∧ (pa < 0x20100000 ∨ 0x20200000 ≤ pa)) →
        exec (.adawi add sum) s = .refused .ioSpaceReference) ∧
    (∀ ea, l = .mem ea → ea.toNat % 2 = 1 →
      exec (.adawi add sum) s =
        initiate ⟨0x18, [], s.pc, (s2.undone s).clearTp.psl, none, none⟩ (s2.undone s).clearTp)

/-- 41_integer.md R433, R434: a quadword product and sum, which never overflows; the quotient, then the remainder, once
both are known to be writable. That the results are stored so when register operands overlap is the model's choice (log 12, R266). -/
def Obligations.ExtendedComplete : Prop :=
  (∀ (mulr muld add prod : Spec) (s s1 s2 s3 u t : State) (a b c : Word) (l : Loc),
      readOp 32 mulr false s.opened = .ok a s1 → readOp 32 muld false s1 = .ok b s2 → readOp 32 add false s2 = .ok c s3 →
      writeOp 64 prod false s3 = .ok l u →
      let r := BitVec.ofInt 64 (a.toInt * b.toInt + c.toInt)
      storeOp l r false u = .ok () t →
        r.toInt = a.toInt * b.toInt + c.toInt ∧
        Completed (.emul mulr muld add prod) false [mulr, muld, add, prod] ⟨r, nz r false false, false⟩ l s u t) ∧
  (∀ (divr divd quo rem : Spec) (s s1 s2 s3 s4 s5 u v t : State) (d : Word) (n : BitVec 64) (lq lr : Loc),
      readInt 32 false divr s.opened = .ok d s1 → readInt 64 false divd s1 = .ok n s2 →
      locate .write .l false quo s2 = .ok lq s3 → locate .write .l false rem s3 = .ok lr s4 →
      checkStore false 32 lq s4 = .ok () s5 → checkStore false 32 lr s5 = .ok () u →
      let x := (wantExtendedQuotient d n).1
      let r := (wantExtendedQuotient d n).2
      storeLoc false false lq x.r u = .ok () v → storeLoc false false lr r v = .ok () t →
        (x.trap (s.pslBit pslIV) = none → exec (.ediv divr divd quo rem) s = .next (t.setCC x.cc)) ∧
        (∀ code, x.trap (s.pslBit pslIV) = some code → exec (.ediv divr divd quo rem) s =
          initiate ⟨0x34, [code], t.pc, (t.setCC x.cc).psl, none, none⟩ (t.setCC x.cc)) ∧
        t.pc = s.pc + BitVec.ofNat 32 (Instr.ediv divr divd quo rem).length ∧
        Kept false (lq.writes || lr.writes)
          (rPC :: [divr, divd, quo, rem].flatMap Spec.stepped ++ lq.regs 32 ++ lr.regs 32) s t ∧
        Quiet s u ∧ Stored lq x.r u u v ∧ Stored lr r v v t)

/-! ### Control (42_control.md) -/

/-- 42_control.md R470 to R486: the whole next state of a branch, taken or not; the condition codes stay. That a taken branch
refills the instruction buffer (20_memory.md R229, decision D12) and one that is not taken keeps it (log 44, DEDUCED) is the
model's choice. -/
def Obligations.BranchesComplete : Prop :=
  Branches .brb (fun _ => true) ∧ Branches .bneq (fun f => !f.z) ∧ Branches .beql (fun f => f.z) ∧
  Branches .bgtr (fun f => !f.n && !f.z) ∧ Branches .bleq (fun f => f.n || f.z) ∧ Branches .bgeq (fun f => !f.n) ∧
  Branches .blss (fun f => f.n) ∧ Branches .bgtru (fun f => !f.c && !f.z) ∧ Branches .blequ (fun f => f.c || f.z) ∧
  Branches .bvc (fun f => !f.v) ∧ Branches .bvs (fun f => f.v) ∧ Branches .bcc (fun f => !f.c) ∧
  Branches .bcs (fun f => f.c) ∧
  ∀ (d : BitVec 16) (s : State),
    exec (.brw d) s = .next ((s.setPc (s.pc + 3)).branch true (s.pc + 3 + d.signExtend 32))

/-- 42_control.md R474, R487 to R490: jumps, subroutine calls and the return from a subroutine. That each of them refills the
instruction buffer (R470; 20_memory.md R229, decision D12; log 9, DEDUCED) is the model's choice. -/
def Obligations.SubroutinesComplete : Prop :=
  (∀ (dst : Spec) (s u : State) (a : Word), addressOp .b false dst s.opened = .ok a u →
    exec (.jmp dst) s = .next (u.branch true a) ∧ Kept false false (rPC :: dst.stepped) s u) ∧
  (∀ (dst : Spec) (s u t : State) (a : Word), addressOp .b false dst s.opened = .ok a u → push u.pc u = .ok () t →
    exec (.jsb dst) s = .next (t.branch true a) ∧ u.pc = s.pc + BitVec.ofNat 32 (Instr.jsb dst).length ∧
    Kept false false (rPC :: dst.stepped) s u ∧ PushedAll u.cur [u.pc] u t ∧ Stored (.mem (u.sp - 4)) u.pc s u t) ∧
  (∀ (d : BitVec 8) (s u t : State), u = s.setPc (s.pc + 2) → push u.pc u = .ok () t →
    exec (.bsbb d) s = .next (t.branch true (u.pc + d.signExtend 32)) ∧ PushedAll u.cur [u.pc] u t ∧
    Stored (.mem (u.sp - 4)) u.pc s u t) ∧
  (∀ (d : BitVec 16) (s u t : State), u = s.setPc (s.pc + 3) → push u.pc u = .ok () t →
    exec (.bsbw d) s = .next (t.branch true (u.pc + d.signExtend 32)) ∧ PushedAll u.cur [u.pc] u t ∧
    Stored (.mem (u.sp - 4)) u.pc s u t) ∧
  (∀ (s t : State) (a : Word), memReadLong s.sp s.opened = .ok a t →
    exec .rsb s = .next ((t.setReg rSP (s.sp + 4)).branch true a) ∧ Kept false false [rPC] s t)

/-- 42_control.md R491 to R503: branches on a low bit; loops, with their trap after the branch decision; the displacement a
case selects is added to the address of its table, and past the limit PC moves over the table. That a taken branch or case
refills the instruction buffer (R470; 20_memory.md R229, D12), and that a loop or case that falls through keeps it and a case's
table is fetched as the instruction stream is (log 44, DEDUCED), is the model's choice. -/
def Obligations.LoopsAndCasesComplete : Prop :=
  ((∀ (src : Spec) (d : BitVec 8) (s u : State) (a : Word), readOp 32 src true s.opened = .ok a u →
      exec (.blbs src d) s =
        .next ((u.setPc (u.pc + 1)).branch (decide (a.toNat % 2 = 1)) (u.pc + 1 + d.signExtend 32)) ∧
      exec (.blbc src d) s =
        .next ((u.setPc (u.pc + 1)).branch (decide (a.toNat % 2 = 0)) (u.pc + 1 + d.signExtend 32)) ∧
      u.pc + 1 = s.pc + BitVec.ofNat 32 (Instr.blbs src d).length ∧ Kept true false (rPC :: src.stepped) s u) ∧
    AddCompares 8 .acbb ∧ AddCompares 16 .acbw ∧ AddCompares 32 .acbl ∧
    AddOnes .aoblss (fun r lim => decide (r < lim)) ∧ AddOnes .aobleq (fun r lim => decide (r ≤ lim)) ∧
    SubtractOnes .sobgeq (fun r => decide (0 ≤ r)) ∧ SubtractOnes .sobgtr (fun r => decide (0 < r))) ∧
  (Cases 8 .caseb ∧ Cases 16 .casew ∧ Cases 32 .casel)

/-- 42_control.md R504 to R507: the call frame, checked whole before it is written (70_reset_and_hazards.md R1285), the new
registers and the new PSW, a mask with bit 12 or 13 set being a reserved operand fault, before which the argument count of a
CALLS is taken back; the frame at FP popped, its registers restored, and the arguments of a CALLS removed; a saved PSW with a bit
of 15:8 set being a reserved operand fault. That the frame is
checked whole before any of it is written, where R505 lets a part of it be (log 31, DEDUCED), and that a call and a return refill
the instruction buffer (R470; 20_memory.md R229, decision D12; log 9, DEDUCED) is the model's choice. -/
def Obligations.ProceduresComplete : Prop :=
  ((∀ (arglist dst : Spec) (s s1 s2 u : State) (ap d : Word) (m : Nat),
      addressOp .b false arglist s.opened = .ok ap s1 → addressOp .b false dst s1 = .ok d s2 →
      memReadN d 2 s2 = .ok m u →
        u.pc = s.pc + BitVec.ofNat 32 (Instr.callg arglist dst).length ∧
        Kept false false (rPC :: [arglist, dst].flatMap Spec.stepped) s u ∧
        (m / 4096 % 4 = 0 → Enters (.callg arglist dst) false (BitVec.ofNat 16 m) ap d s u) ∧
        (m / 4096 % 4 ≠ 0 → exec (.callg arglist dst) s =
          initiate ⟨0x18, [], s.pc, (u.undone s).clearTp.psl, none, none⟩ (u.undone s).clearTp)) ∧
    (∀ (numarg dst : Spec) (s s1 s2 s3 u : State) (n d : Word) (m : Nat),
      readInt 32 false numarg s.opened = .ok n s1 → addressOp .b false dst s1 = .ok d s2 → push n s2 = .ok () s3 →
      memReadN d 2 s3 = .ok m u →
        u.pc = s.pc + BitVec.ofNat 32 (Instr.calls numarg dst).length ∧
        Kept false false (rPC :: [numarg, dst].flatMap Spec.stepped) s s2 ∧ PushedAll s2.cur [n] s2 s3 ∧
        Kept false false [] s3 u ∧
        (m / 4096 % 4 = 0 → Enters (.calls numarg dst) true (BitVec.ofNat 16 m) s3.sp d s u) ∧
        (m / 4096 % 4 ≠ 0 → ∃ v, Faults 0x18 [] s v (exec (.calls numarg dst) s) ∧ Kept false true [rSP] s2 v ∧
          Quiet s2 v))) ∧
  (∀ (s s1 s2 : State) (tmp : Word),
      s1 = s.opened.setReg rSP (s.reg rFP + 4) → pop s1 = .ok tmp s2 → tmp.toNat / 256 % 256 ≠ 0 →
        Faults 0x18 [] s s2 (exec .ret s)) ∧
  (∀ (s s1 s2 s3 s4 s5 s6 : State) (tmp ap fp pc : Word),
      s1 = s.opened.setReg rSP (s.reg rFP + 4) → pop s1 = .ok tmp s2 → tmp.toNat / 256 % 256 = 0 →
      pop s2 = .ok ap s3 → pop (s3.setReg rAP ap) = .ok fp s4 → pop (s4.setReg rFP fp) = .ok pc s5 →
      popInto (maskRegs ((tmp.extractLsb' 16 12).setWidth 16) callRegs.reverse) s5 = .ok () s6 →
      let u : State := { s6.setReg rSP (s6.sp + (tmp.extractLsb' 30 2).setWidth 32) with
        psl := s6.psl.extractLsb' 16 16 ++ tmp.extractLsb' 0 16 }
      Kept false false [0, 1, 2, 3, 4, 5, 6, 7, 8, 9, 10, 11, rAP, rFP, rSP, rPC] s s6 ∧
      (tmp.getLsbD 29 = false → exec .ret s = .next (u.branch true pc)) ∧
      (∀ n v, tmp.getLsbD 29 = true → pop u = .ok n v →
        exec .ret s = .next ((v.setReg rSP (v.sp + BitVec.ofNat 32 (4 * (n.toNat % 256)))).branch true pc)))

/-! ### Fields, queues and miscellaneous (43_field_queue_misc.md) -/

/-- 43_field_queue_misc.md R540 to R543, R545 to R548: a field extracted or compared, signed or not; its first set or clear
bit, or the position after it with Z set; a size above 32, or a position above 31 of a field of some bits in a register, is a
reserved operand fault. -/
def Obligations.FieldsComplete : Prop :=
  (Extracts .extv fieldSigned ∧ Extracts .extzv fieldUnsigned ∧ ComparesField .cmpv fieldSigned ∧
    ComparesField .cmpzv fieldUnsigned) ∧
  (FindsBit .ffs true ∧ FindsBit .ffc false)

/-- 43_field_queue_misc.md R540, R544: the low-order bits of the source replace the field, in a register pair or in memory,
and no other bit and no condition code changes; a size above 32, or a position above 31 of a field of some bits in a
register, is a reserved operand fault. -/
def Obligations.InsvCompletes : Prop :=
  (∀ (src pos size base : Spec) (s s1 u : State) (a : Word) (f : FieldRef),
      readInt 32 false src s.opened = .ok a s1 → fieldOperands pos size base s1 = .ok f u → f.size.toNat ≤ 32 →
      let n := f.size.toNat
      u.pc = s.pc + BitVec.ofNat 32 (Instr.insv src pos size base).length ∧
      Kept false false (rPC :: [src, pos, size, base].flatMap Spec.stepped) s u ∧
      (n = 0 → exec (.insv src pos size base) s = .next u) ∧
      (∀ r, n ≠ 0 → f.base = .reg r → f.pos.toNat < 32 → (r = rSP → f.pos.toNat + n ≤ 32) →
        ∃ t, exec (.insv src pos size base) s = .next t ∧ Kept false false [r, r + 1] u t ∧
          ∀ j, j < 64 → (t.reg (r + 1) ++ t.reg r).getLsbD j =
            if f.pos.toNat ≤ j ∧ j < f.pos.toNat + n then a.getLsbD (j - f.pos.toNat)
            else (u.reg (r + 1) ++ u.reg r).getLsbD j) ∧
      (∀ (ea : Word) (m m' o k : Nat) (v t : State), n ≠ 0 → f.base = .mem ea → o = f.pos.toNat % 8 → k = (o + n + 7) / 8 →
        loadVirtIn u.cur false false true (ea + f.pos.sshiftRight 3) k u = .ok m v → m' < 256 ^ k →
        (∀ j, j < 8 * k → m'.testBit j = if o ≤ j ∧ j < o + n then a.getLsbD (j - o) else m.testBit j) →
        storeVirtIn v.cur false false (ea + f.pos.sshiftRight 3) k m' v = .ok () t →
          exec (.insv src pos size base) s = .next t ∧ Kept false true [] u t ∧
          Stored (.mem (ea + f.pos.sshiftRight 3)) (BitVec.ofNat (8 * k) m') s v t)) ∧
  (∀ (src pos size base : Spec) (s s1 u : State) (a : Word) (f : FieldRef),
      readInt 32 false src s.opened = .ok a s1 → fieldOperands pos size base s1 = .ok f u →
      (32 < f.size.toNat ∨ ∃ r, f.base = .reg r ∧ f.size ≠ 0 ∧ 31 < f.pos.toNat) →
        exec (.insv src pos size base) s =
          initiate ⟨0x18, [], s.pc, (u.undone s).clearTp.psl, none, none⟩ (u.undone s).clearTp)

/-- 43_field_queue_misc.md R549 to R557: branches on a bit; the bit is set or cleared whether or not the branch is taken,
and no condition code changes; a position above 31 in a register is a reserved operand fault. That an interlocked one waits, TP
cleared, while another agent holds the interlock (logs 29, DESIGN CHOICE, and 31, DEDUCED, from 20_memory.md R226 and
64_memory_controller.md R870), and that a taken branch refills the instruction buffer (R470; 20_memory.md R229, decision D12; log 9,
DEDUCED), is the model's choice. -/
def Obligations.BitBranchesComplete : Prop :=
  BranchesOnBit .bbs 1 ∧ BranchesOnBit .bbc 0 ∧
  BranchesOnBitAndSets .bbss true true false ∧ BranchesOnBitAndSets .bbcs false true false ∧
  BranchesOnBitAndSets .bbsc true false false ∧ BranchesOnBitAndSets .bbcc false false false ∧
  BranchesOnBitAndSets .bbssi true true true ∧ BranchesOnBitAndSets .bbcci false false true

/-- 43_field_queue_misc.md R558 to R560: an entry linked in, or out, once every access is known to be allowed; the old
successor is compared with the predecessor. -/
def Obligations.QueuesComplete : Prop :=
  (∀ (entry pred : Spec) (s s1 s2 s3 s4 s5 u t1 t2 t3 t : State) (e p succ : Word),
    addressOp .b false entry s.opened = .ok e s1 → addressOp .b false pred s1 = .ok p s2 → s2.bus.intlk = false →
    memReadLong p s2 = .ok succ s3 → probeWrite false e 8 s3 = .ok () s4 → probeWrite false (succ + 4) 4 s4 = .ok () s5 →
    probeWrite false p 4 s5 = .ok () u → memWriteLong e succ u = .ok () t1 → memWriteLong (e + 4) p t1 = .ok () t2 →
    memWriteLong (succ + 4) e t2 = .ok () t3 → memWriteLong p e t3 = .ok () t →
      exec (.insque entry pred) s =
        .next (t.setCC ⟨decide (succ.toInt < p.toInt), decide (succ = p), false, decide (succ.toNat < p.toNat)⟩) ∧
      t.pc = s.pc + BitVec.ofNat 32 (Instr.insque entry pred).length ∧
      Kept false true (rPC :: [entry, pred].flatMap Spec.stepped) s t ∧ Quiet s u ∧ Stored (.mem e) succ u u t1 ∧
      Stored (.mem (e + 4)) p t1 t1 t2 ∧ Stored (.mem (succ + 4)) e t2 t2 t3 ∧ Stored (.mem p) e t3 t3 t) ∧
  (∀ (entry addr : Spec) (s s1 s2 s3 s4 s5 s6 u t1 t2 t : State) (e p succ : Word) (l : Loc),
    addressOp .b false entry s.opened = .ok e s1 → writeOp 32 addr true s1 = .ok l s2 → s2.bus.intlk = false →
    memReadLong e s2 = .ok succ s3 → memReadLong (e + 4) s3 = .ok p s4 → probeWrite false p 4 s4 = .ok () s5 →
    probeWrite false (succ + 4) 4 s5 = .ok () s6 → checkStore true 32 l s6 = .ok () u →
    memWriteLong p succ u = .ok () t1 → memWriteLong (succ + 4) p t1 = .ok () t2 → storeOp l e true t2 = .ok () t →
      exec (.remque entry addr) s =
        .next (t.setCC ⟨decide (succ.toInt < p.toInt), decide (succ = p), decide (e = p),
          decide (succ.toNat < p.toNat)⟩) ∧
      t.pc = s.pc + BitVec.ofNat 32 (Instr.remque entry addr).length ∧
      Kept true true (rPC :: [entry, addr].flatMap Spec.stepped ++ l.regs 32) s t ∧
      (checkMapped 32 l s6 = .ok () u → Quiet s u) ∧
      Stored (.mem p) succ u u t1 ∧ Stored (.mem (succ + 4)) p t1 t1 t2 ∧ Stored l e t2 t2 t)

/-- 43_field_queue_misc.md R561 to R565, 42_control.md R509: the registers of a mask pushed from R14 down, every push checked
before the first (70_reset_and_hazards.md R1285), and popped from R0 up;
the PSL stored; bits of the PSW set and cleared, a mask with bits 15:8 not zero a reserved operand fault; no operation. That PUSHR
pushes the SP its mask operand has stepped, not the one before the instruction, is the model's choice (log 31, R561). -/
def Obligations.RegisterSetsAndPswComplete : Prop :=
  ((∀ (mask : Spec) (s u v t : State) (m : BitVec 16), readOp 16 mask false s.opened = .ok m u →
      let vs := (maskRegs m [14, 13, 12, 11, 10, 9, 8, 7, 6, 5, 4, 3, 2, 1, 0]).map u.reg
      checkPushes vs.length u.sp u = .ok () v → pushAllIn u.cur false vs v = .ok () t →
        exec (.pushr mask) s = .next t ∧ t.pc = s.pc + BitVec.ofNat 32 (Instr.pushr mask).length ∧
        Kept false false (rPC :: mask.stepped) s u ∧ Kept false true [] u v ∧ Quiet u v ∧ PushedAll u.cur vs v t) ∧
    (∀ (mask : Spec) (s u t : State) (m : BitVec 16), readOp 16 mask false s.opened = .ok m u →
      let rs := maskRegs m [0, 1, 2, 3, 4, 5, 6, 7, 8, 9, 10, 11, 12, 13, 14]
      popInto rs u = .ok () t →
        exec (.popr mask) s = .next t ∧ t.pc = s.pc + BitVec.ofNat 32 (Instr.popr mask).length ∧
        Kept false false (rPC :: mask.stepped) s u ∧ Kept false false (rSP :: rs) u t)) ∧
  ((∀ (dst : Spec) (s u t : State) (l : Loc), writeOp 32 dst true s.opened = .ok l u → storeOp l s.psl true u = .ok () t →
      exec (.movpsl dst) s = .next t ∧ t.pc = s.pc + BitVec.ofNat 32 (Instr.movpsl dst).length ∧
      Kept true l.writes (rPC :: dst.stepped ++ l.regs 32) s t ∧ Stored l s.psl s u t) ∧
    (∀ (mask : Spec) (s u : State) (m : BitVec 16), readOp 16 mask true s.opened = .ok m u →
      u.pc = s.pc + BitVec.ofNat 32 (Instr.bispsw mask).length ∧ Kept true false (rPC :: mask.stepped) s u ∧
      (m.toNat < 256 → exec (.bispsw mask) s = .next { u with psl := s.psl ||| m.setWidth 32 } ∧
        exec (.bicpsw mask) s = .next { u with psl := s.psl &&& ~~~m.setWidth 32 }) ∧
      (256 ≤ m.toNat →
        let r := (u.undone s).clearTp
        exec (.bispsw mask) s = initiate ⟨0x18, [], s.pc, r.psl, none, none⟩ r ∧
        exec (.bicpsw mask) s = initiate ⟨0x18, [], s.pc, r.psl, none, none⟩ r)) ∧
    (∀ s : State, exec .nop s = .next s.opened))

/-- 43_field_queue_misc.md R566: the index computed and stored whatever the subscript; one out of range traps with
code 7. -/
def Obligations.IndexCompletes : Prop :=
  ∀ (subscript low high size indexin indexout : Spec) (s s1 s2 s3 s4 s5 u t : State) (sub lo hi sz i : Word) (l : Loc),
    readOp 32 subscript false s.opened = .ok sub s1 → readOp 32 low false s1 = .ok lo s2 →
    readOp 32 high false s2 = .ok hi s3 → readOp 32 size false s3 = .ok sz s4 → readOp 32 indexin false s4 = .ok i s5 →
    writeOp 32 indexout false s5 = .ok l u →
    let r : Word := BitVec.ofInt 32 ((i.toInt + sub.toInt) * sz.toInt)
    let f := nz r false false
    let x := Instr.index subscript low high size indexin indexout
    storeOp l r false u = .ok () t →
      (lo.toInt ≤ sub.toInt ∧ sub.toInt ≤ hi.toInt → exec x s = .next (t.setCC f)) ∧
      (sub.toInt < lo.toInt ∨ hi.toInt < sub.toInt →
        exec x s = initiate ⟨0x34, [7], t.pc, (t.setCC f).psl, none, none⟩ (t.setCC f)) ∧
      t.pc = s.pc + BitVec.ofNat 32 x.length ∧
      Kept false l.writes
        (rPC :: [subscript, low, high, size, indexin, indexout].flatMap Spec.stepped ++ l.regs 32) s t ∧
      Stored l r s u t

/-! ### Exceptions, privileged instructions (60_exceptions.md, 40_privileged.md) -/

/-- 60_exceptions.md R1161, R1190, R1195: the initiation of an exception or interrupt, whatever event and state, the vector being
read from the SCB, as a longword of main memory without an error is (20_memory.md R140, R192). -/
def Obligations.EventsEnter : Prop :=
  (∀ (e : Event) (s : State), Takes e s (initiate e s)) ∧
  ∀ (io : Bool) (s : State) (pa : Nat) (w : Word), s.errs.memory = [] → s.memLong pa = some w →
    physReadLong io pa s = .ok w s

/-- 42_control.md R508, 40_privileged.md R329, R332, 30_encoding.md R263, 60_exceptions.md R1210, R1211, R1217: the opcodes
whose whole effect is a fault through vectors 2C, 14 and 10; HALT halts in kernel mode, the console in command mode, and is
such a fault in the others. -/
def Obligations.FaultingOpcodesAndHalt : Prop :=
  (TakesFault 0x2C .bpt ∧ TakesFault 0x14 .xfc ∧
    ∀ i ∈ [Instr.reserved57, .reserved59, .reserved5a, .reserved5b, .reserved5c, .reserved5d, .reserved5e, .reserved5f,
      .reserved77, .escd, .esce, .escf], TakesFault 0x10 i) ∧
  (∀ s : State,
    (s.cur = 0 → exec .halt s = .next { s.opened with
      run := { halted := true, why := .haltInstruction, haltReq := false, stepsLeft := none }
      console := { s.console with programIo := false }
      outputs := .halted .haltInstruction :: s.outputs }) ∧
    (s.cur ≠ 0 → Faults 0x10 [] s s (exec .halt s)))

/-- 40_privileged.md R322 to R326: the change mode instructions; on the interrupt stack they halt. That the vector is read before
the pushes, as in every initiation (60_exceptions.md R1190, R1220), where R322 lists it after them (log 43), and that all three
pushes are checked before it (log 31), is the model's choice. -/
def Obligations.ChangeModeCompletes : Prop :=
  ChangesMode 0 .chmk ∧ ChangesMode 1 .chme ∧ ChangesMode 2 .chms ∧ ChangesMode 3 .chmu

/-- 42_control.md R500: a return whose PSL image is allowed loads PC, PSL and the stack pointer of the new mode, keeps a
trace pending, and asks for an AST delivery; one that is not allowed is a reserved operand fault. -/
def Obligations.ReiCompletes : Prop :=
  ∀ (s v t : State) (pc new : Word), memReadLong s.sp s.opened = .ok pc v → memReadLong (s.sp + 4) v = .ok new t →
    (¬ReturnAllowed s.psl new → Faults 0x18 [] s t (exec .rei s)) ∧
    (ReturnAllowed s.psl new → new.getLsbD 31 = false →
      let u : State := { (t.setReg rSP (s.sp + 8)).setPc pc with
        spb := t.spb.set s.activeStack (s.sp + 8)
        psl := new ||| (s.psl &&& 0x40000000)
        stale := []
        prefetched := [] }
      (new.getLsbD 26 = true → exec .rei s = .next u) ∧
      (new.getLsbD 26 = false → exec .rei s = .next { u.setReg rSP u.spb[modeStack u.cur] with
        ipr := { s.ipr with
          sisr := if s.ipr.astlvl.toNat ≤ u.cur.toNat then s.ipr.sisr ||| 4 else s.ipr.sisr } })) ∧
    Kept false false [rPC] s t

/-- 40_privileged.md R330, R331: a processor register written or read in kernel mode, N and Z from the value, V cleared, C
kept; in another mode a privileged instruction fault. A register that may not be read is a reserved operand fault whatever the
destination. A register of the memory map is written once the instruction buffer has kept its bytes (70_reset_and_hazards.md
R1284). That the operands are evaluated before the mode is checked (decision D36 in R330; log 23; 60_exceptions.md R1210 reads
otherwise), and the destination of MFPR checked before the register is read (log 34, DEDUCED), is the model's choice. -/
def Obligations.RegisterMovesComplete : Prop :=
  (∀ (src rn : Spec) (s s1 u : State) (v n : Word), readOp 32 src true s.opened = .ok v s1 → readOp 32 rn true s1 = .ok n u →
    u.pc = s.pc + BitVec.ofNat 32 (Instr.mtpr src rn).length ∧
    Kept true false (rPC :: [src, rn].flatMap Spec.stepped) s u ∧
    (∀ t, s.cur = 0 → n.toNat ∉ [8, 9, 10, 11, 12, 13, 56] → writeIpr n.toNat v u = .ok () t →
      exec (.mtpr src rn) s = .next (t.setCC (nz v false s.cc.c))) ∧
    (s.cur = 0 → n.toNat ∈ [8, 9, 10, 11, 12, 13, 56] → ∃ x, Refetched u x ∧
      ∀ t, writeIpr n.toNat v x = .ok () t → exec (.mtpr src rn) s = .next (t.setCC (nz v false s.cc.c))) ∧
    (s.cur ≠ 0 → Faults 0x10 [] s u (exec (.mtpr src rn) s))) ∧
  (∀ (rn dst : Spec) (s s1 u : State) (n : Word) (l : Loc),
    readOp 32 rn true s.opened = .ok n s1 → writeOp 32 dst true s1 = .ok l u →
    u.pc = s.pc + BitVec.ofNat 32 (Instr.mfpr rn dst).length ∧
    Kept true false (rPC :: [rn, dst].flatMap Spec.stepped) s u ∧
    (∀ (v x t : State) (r : Word), s.cur = 0 → checkStore true 32 l u = .ok () v → readIpr n.toNat v = .ok r x →
      storeOp l r true x = .ok () t →
        exec (.mfpr rn dst) s = .next (t.setCC (nz r false s.cc.c)) ∧ Kept true l.writes [] u v ∧
        (checkMapped 32 l u = .ok () v → Kept false l.writes [] u v ∧ Quiet s v) ∧ Stored l r x x t) ∧
    (∀ x, s.cur = 0 → readIpr n.toNat u = .error (.fault 0x18 []) x → Faults 0x18 [] s u (exec (.mfpr rn dst) s)) ∧
    (s.cur ≠ 0 → Faults 0x10 [] s u (exec (.mfpr rn dst) s)))

/-- 40_privileged.md R320, R321: the context of a process loaded, the instruction buffer having kept its bytes
(70_reset_and_hazards.md R1284), PSL and PC pushed on its kernel stack once both pushes have been checked (R1285); a process control
block that a check fails is a reserved operand abort, what was loaded before it staying loaded; and saved, with
the interrupt stack entered at an IPL of at least 1 when the kernel stack was in use. The block stands in main memory, free of errors
for the load. -/
def Obligations.ContextSwitchCompletes : Prop :=
  (∀ (s : State) (f : Nat → Word), s.cur = 0 → s.ipr.pcbb.toNat < ioBase → s.errs.memory = [] →
    (∀ k, k < 24 → k ≠ 18 → s.memLong (s.ipr.pcbb.toNat + 4 * k) = some (f k)) →
    ∃ x, Refetched s.opened x ∧
    (∀ k, (contextChecks f).findIdx? (· == false) = some k →
      exec .ldpctx s = initiate ⟨0x18, [], s.pc, s.psl, none, none⟩ (x.contextPart f k)) ∧
    ∀ v u t pc, ContextValid f → checkPushes 2 (f 0) (x.contextLoaded f) = .ok () v →
      v.memLong (s.ipr.pcbb.toNat + 76) = some (f 19) → push (f 19) v = .ok () u →
      u.memLong (s.ipr.pcbb.toNat + 72) = some pc → push pc u = .ok () t →
        exec .ldpctx s = .next t ∧ Kept false true [] (x.contextLoaded f) v ∧ Quiet (x.contextLoaded f) v) ∧
  (∀ (s u v1 v2 v3 t : State) (pc psl : Word), s.cur = 0 → s.ipr.pcbb.toNat < ioBase →
    storeLongs s.ipr.pcbb.toNat ([s.getSp 0, s.getSp 1, s.getSp 2, s.getSp 3] ++
      [0, 1, 2, 3, 4, 5, 6, 7, 8, 9, 10, 11, rAP, rFP].map s.reg) s.opened = .ok () u →
    pop u = .ok pc v1 → physWriteLong (s.ipr.pcbb.toNat + 72) pc v1 = .ok () v2 → pop v2 = .ok psl v3 →
    physWriteLong (s.ipr.pcbb.toNat + 76) psl v3 = .ok () t →
      (s.onIntStack = true → exec .svpctx s = .next t) ∧
      (∀ x, s.onIntStack = false → physWriteLong s.ipr.pcbb.toNat t.sp t = .ok () x →
        exec .svpctx s = .next { x.setReg rSP x.spb[4] with
          spb := x.spb.set 0 x.sp
          psl := (if s.ipl = 0 then s.psl ||| 0x00010000 else s.psl) ||| 0x04000000 })) ∧
  (∀ s : State, s.cur ≠ 0 → Faults 0x10 [] s s (exec .ldpctx s) ∧ Faults 0x10 [] s s (exec .svpctx s))

/-- 40_privileged.md R327, R328, 20_memory.md R188: both end bytes probed, Z telling that one is not accessible: what a probe
answers is what the lengths and the protection codes of the tables say, and no byte changes but for a modify bit (that a write
probe may set one is log 17's, DEDUCED). That a fault saves the address of the probed byte, of all in its page, is the model's choice
(20_memory.md R187; log 56). -/
def Obligations.ProbesComplete : Prop :=
  (Probes false .prober ∧ Probes true .probew) ∧
  ∀ (io : Bool) (s : State) (va : Word) (write : Bool) (mode : Mode), ProbeAnswers io s va write mode

/-! ### Floating point (44_float.md) -/

/-- 44_float.md R601, R604 to R619, 60_exceptions.md R1231: the exact sum, difference, product or quotient of the operands' values,
stored; here and in the next three statements a reserved operand is a fault once all specifiers have been evaluated, and a fault of
a specifier is taken whatever datum was read before it. -/
def Obligations.FloatArithmeticCompletes : Prop :=
  FloatBinary2 32 .addf2 (fun a b => fStore 32 (b.add a)) ∧ FloatBinary3 32 .addf3 (fun a b => fStore 32 (b.add a)) ∧
  FloatBinary2 64 .addd2 (fun a b => fStore 64 (b.add a)) ∧ FloatBinary3 64 .addd3 (fun a b => fStore 64 (b.add a)) ∧
  FloatBinary2 32 .subf2 (fun a b => fStore 32 (b.sub a)) ∧ FloatBinary3 32 .subf3 (fun a b => fStore 32 (b.sub a)) ∧
  FloatBinary2 64 .subd2 (fun a b => fStore 64 (b.sub a)) ∧ FloatBinary3 64 .subd3 (fun a b => fStore 64 (b.sub a)) ∧
  FloatBinary2 32 .mulf2 (fun a b => fStore 32 (b.mul a)) ∧ FloatBinary3 32 .mulf3 (fun a b => fStore 32 (b.mul a)) ∧
  FloatBinary2 64 .muld2 (fun a b => fStore 64 (b.mul a)) ∧ FloatBinary3 64 .muld3 (fun a b => fStore 64 (b.mul a)) ∧
  FloatBinary2 32 .divf2 (fun a b => fQuotient 32 b a) ∧ FloatBinary3 32 .divf3 (fun a b => fQuotient 32 b a) ∧
  FloatBinary2 64 .divd2 (fun a b => fQuotient 64 b a) ∧ FloatBinary3 64 .divd3 (fun a b => fQuotient 64 b a)

/-- 44_float.md R620 to R627: data moved bit for bit with C kept, negated (a zero becomes the clean zero), compared, tested. -/
def Obligations.FloatMovesComplete : Prop :=
  FloatUnary 32 32 .movf (⟨·, .none⟩) true ∧ FloatUnary 64 64 .movd (⟨·, .none⟩) true ∧
  FloatUnary 32 32 .mnegf (fun x => ⟨if (fVal x).m = 0 then 0 else x ^^^ 0x8000, .none⟩) false ∧
  FloatUnary 64 64 .mnegd (fun x => ⟨if (fVal x).m = 0 then 0 else x ^^^ 0x8000, .none⟩) false ∧
  FloatCompares 32 .cmpf ∧ FloatCompares 64 .cmpd ∧ FloatTests 32 .tstf ∧ FloatTests 64 .tstd

/-- 44_float.md R628 to R643: conversions between integers and floating data, and between the two floating types. -/
def Obligations.FloatConversionsComplete : Prop :=
  FloatToInt 32 8 .cvtfb FVal.trunc ∧ FloatToInt 32 16 .cvtfw FVal.trunc ∧ FloatToInt 32 32 .cvtfl FVal.trunc ∧
  FloatToInt 64 8 .cvtdb FVal.trunc ∧ FloatToInt 64 16 .cvtdw FVal.trunc ∧ FloatToInt 64 32 .cvtdl FVal.trunc ∧
  FloatToInt 32 32 .cvtrfl FVal.round ∧ FloatToInt 64 32 .cvtrdl FVal.round ∧
  IntToFloat 8 32 .cvtbf ∧ IntToFloat 16 32 .cvtwf ∧ IntToFloat 32 32 .cvtlf ∧
  IntToFloat 8 64 .cvtbd ∧ IntToFloat 16 64 .cvtwd ∧ IntToFloat 32 64 .cvtld ∧
  FloatUnary 32 64 .cvtfd (fun x => ⟨if (fVal x).m = 0 then 0 else x.setWidth 64, .none⟩) false ∧
  FloatUnary 64 32 .cvtdf (fun x => fStore 32 (fVal x)) false

/-- 44_float.md R644 to R650: the integer and fraction of an extended product; polynomials, a reserved argument or coefficient and
a degree above 31 being reserved operand faults; loops, whose index does not branch when it overflows. What a polynomial that
overflows leaves (log 37), and that a taken loop refills the instruction buffer (R470; 20_memory.md R229, decision D12; log 9,
DEDUCED), is the model's choice. -/
def Obligations.FloatExtendedComplete : Prop :=
  (ExtendsModulus 32 .emodf ∧ ExtendsModulus 64 .emodd ∧
    Polynomials 32 .polyf (fun r a => [(0, r), (1, 0), (2, 0), (3, a)]) ∧
    Polynomials 64 .polyd (fun r a =>
      [(0, r.extractLsb' 0 32), (1, r.extractLsb' 32 32), (2, 0), (3, a), (4, 0), (5, 0)])) ∧
  (FloatAddCompares 32 .acbf ∧ FloatAddCompares 64 .acbd)

/-- 44_float.md R602: a result is the nearest datum to the exact value, of a sum or product as of a quotient (also just below a
power of two, where the data are half as far apart), with its sign; overflow and underflow are met exactly where the rounded
magnitude is out of range, and store the reserved operand and zero; a zero divisor gives the reserved operand. -/
def Obligations.FloatResultsRound : Prop :=
  (∀ v : FVal, Rounds v (fStore 32 v) ∧ Rounds v (fStore 64 v)) ∧
  (∀ a b : FVal, b.m = 0 → fQuotient 32 a b = ⟨0x8000, .divZero⟩ ∧ fQuotient 64 a b = ⟨0x8000, .divZero⟩) ∧
  (∀ a b q : FVal, b.m ≠ 0 → (q.mul b).eq a = true →
    Rounds q (fQuotient 32 a b) ∧ Rounds q (fQuotient 64 a b)) ∧
  (∀ a b : FVal, b.m ≠ 0 → RoundsQuotient a b (fQuotient 32 a b) ∧ RoundsQuotient a b (fQuotient 64 a b))

/-- 44_float.md R600, R628, R634, 00_scope.md R20, R21: the fields of the two formats and their values, the zeros and the reserved
operands among them; storing a datum's own
value gives the datum back; the truncated and the nearest integer of a value. -/
def Obligations.FloatValues : Prop :=
  ((∀ x : Word, fFrac x = x.toNat % 128 * 2 ^ 16 + x.toNat / 2 ^ 16) ∧
    (∀ x : BitVec 64, fFrac x = x.toNat % 128 * 2 ^ 48 + x.toNat / 2 ^ 16 % 2 ^ 16 * 2 ^ 32 +
      x.toNat / 2 ^ 32 % 2 ^ 16 * 2 ^ 16 + x.toNat / 2 ^ 48) ∧
    (∀ x : Word, 0 < x.toNat / 128 % 256 →
      (fVal x).m.natAbs = 2 ^ 23 + fFrac x ∧ ((fVal x).m < 0 ↔ x.getLsbD 15 = true) ∧
      (fVal x).e = ((x.toNat / 128 % 256 : Nat) : Int) - 152) ∧
    (∀ x : Word, x.toNat / 128 % 256 = 0 → fVal x = ⟨0, 0⟩ ∧ (fReserved x = true ↔ x.getLsbD 15 = true)) ∧
    (∀ x : BitVec 64, 0 < x.toNat / 128 % 256 →
      (fVal x).m.natAbs = 2 ^ 55 + fFrac x ∧ ((fVal x).m < 0 ↔ x.getLsbD 15 = true) ∧
      (fVal x).e = ((x.toNat / 128 % 256 : Nat) : Int) - 184) ∧
    (∀ x : BitVec 64, x.toNat / 128 % 256 = 0 → fVal x = ⟨0, 0⟩ ∧ (fReserved x = true ↔ x.getLsbD 15 = true)) ∧
    (∀ x : Word, 0 < x.toNat / 128 % 256 → fReserved x = false ∧ fStore 32 (fVal x) = ⟨x, .none⟩ ∧
      fStore 64 (fVal x) = ⟨x.setWidth 64, .none⟩) ∧
    (∀ x : BitVec 64, 0 < x.toNat / 128 % 256 → fReserved x = false ∧ fStore 64 (fVal x) = ⟨x, .none⟩)) ∧
  (∀ v : FVal,
    (v.mag.lt ⟨v.trunc.natAbs, 0⟩ = false ∧ v.mag.lt ⟨v.trunc.natAbs + 1, 0⟩ = true ∧ 0 ≤ v.trunc * v.m) ∧
    (let off := (v.sub ⟨v.round, 0⟩).mag
     FVal.lt ⟨1, -1⟩ off = false ∧ (off.eq ⟨1, -1⟩ = true → v.mag.lt ⟨v.round.natAbs, 0⟩ = true) ∧ 0 ≤ v.round * v.m))

/-! ### Strings (45_string_decimal.md) -/

/-- 45_string_decimal.md R670 to R673, R681, R682: a string moved, the source read whole before the destination is checked
and written, what is left filled; and moved through a translation table, up to the escape for MOVTUC, whose V tells that it
was met. The destination does not overlap a table, nor MOVTUC's source: those results are free. -/
def Obligations.StringMovesComplete : Prop :=
  ((∀ (len src dst : Spec) (s s1 s2 s3 u t : State) (n : BitVec 16) (a d : Word) (bs : List Byte),
      readLen len s.opened = .ok n s1 → stringAddr src s1 = .ok a s2 → stringAddr dst s2 = .ok d s3 →
      readBytes n.toNat a s3 = .ok bs u → putString d bs u = .ok () t →
        exec (.movc3 len src dst) s = .next ((t.withRegs
          [(0, 0), (1, a + num n.toNat), (2, 0), (3, d + num n.toNat), (4, 0), (5, 0)]).setCC ⟨false, true, false, false⟩) ∧
        Fetched (.movc3 len src dst) [len, src, dst] s u ∧ StringPut d bs u t) ∧
    (∀ (slen src fill dlen dst : Spec) (s s1 s2 s3 s4 s5 u t : State) (n k : BitVec 16) (a d : Word) (f : Byte)
      (bs : List Byte),
      readLen slen s.opened = .ok n s1 → stringAddr src s1 = .ok a s2 → readInt 8 false fill s2 = .ok f s3 →
      readLen dlen s3 = .ok k s4 → stringAddr dst s4 = .ok d s5 →
      let m := min n.toNat k.toNat
      readBytes m a s5 = .ok bs u → putString d (bs ++ List.replicate (k.toNat - m) f) u = .ok () t →
        exec (.movc5 slen src fill dlen dst) s = .next ((t.withRegs
          [(0, num (n.toNat - m)), (1, a + num m), (2, 0), (3, d + num k.toNat), (4, 0), (5, 0)]).setCC (wantCompare n k)) ∧
        Fetched (.movc5 slen src fill dlen dst) [slen, src, fill, dlen, dst] s u ∧
        StringPut d (bs ++ List.replicate (k.toNat - m) f) u t)) ∧
  ((∀ (slen src fill tbl dlen dst : Spec) (s s1 s2 s3 s4 s5 s6 u t : State) (n k : BitVec 16) (a tb d : Word) (f : Byte)
      (bs : List Byte),
      readLen slen s.opened = .ok n s1 → stringAddr src s1 = .ok a s2 → readInt 8 false fill s2 = .ok f s3 →
      stringAddr tbl s3 = .ok tb s4 → readLen dlen s4 = .ok k s5 → stringAddr dst s5 = .ok d s6 →
      let m := min n.toNat k.toNat
      translateBytes tb m a s6 = .ok bs u → overlap d k.toNat tb 256 = false →
      putString d (bs ++ List.replicate (k.toNat - m) f) u = .ok () t →
        exec (.movtc slen src fill tbl dlen dst) s = .next ((t.withRegs
          [(0, num (n.toNat - m)), (1, a + num m), (2, 0), (3, tb), (4, 0), (5, d + num k.toNat)]).setCC (wantCompare n k)) ∧
        Fetched (.movtc slen src fill tbl dlen dst) [slen, src, fill, tbl, dlen, dst] s u ∧
        StringPut d (bs ++ List.replicate (k.toNat - m) f) u t) ∧
    (∀ (slen src esc tbl dlen dst : Spec) (s s1 s2 s3 s4 s5 s6 u t : State) (n k : BitVec 16) (a tb d : Word) (e : Byte)
      (bs : List Byte),
      readLen slen s.opened = .ok n s1 → stringAddr src s1 = .ok a s2 → readInt 8 false esc s2 = .ok e s3 →
      stringAddr tbl s3 = .ok tb s4 → readLen dlen s4 = .ok k s5 → stringAddr dst s5 = .ok d s6 →
      let m := min n.toNat k.toNat
      translateUntil tb e m a s6 = .ok bs u → overlap d k.toNat tb 256 = false → overlap d k.toNat a n.toNat = false →
      putString d bs u = .ok () t →
        let j := bs.length
        exec (.movtuc slen src esc tbl dlen dst) s = .next ((t.withRegs
          [(0, num (n.toNat - j)), (1, a + num j), (2, 0), (3, tb), (4, num (k.toNat - j)), (5, d + num j)]).setCC
            { wantCompare n k with v := decide (j < m) }) ∧
        Fetched (.movtuc slen src esc tbl dlen dst) [slen, src, esc, tbl, dlen, dst] s u ∧ StringPut d bs u t))

/-- 45_string_decimal.md R674 to R680, R683: strings compared and searched, the CRC of a stream; nothing is written but
registers and condition codes. -/
def Obligations.StringSearchesComplete : Prop :=
  ((∀ (len src1 src2 : Spec) (s s1 s2 s3 t : State) (n : BitVec 16) (a1 a2 : Word) (k : Nat) (p : Option (Byte × Byte)),
      readLen len s.opened = .ok n s1 → stringAddr src1 s1 = .ok a1 s2 → stringAddr src2 s2 = .ok a2 s3 →
      compareFrom 0 n.toNat a1 n.toNat a2 n.toNat 0 s3 = .ok (k, p) t →
        exec (.cmpc3 len src1 src2) s = .next (comparedStrings n.toNat n.toNat a1 a2 k p t) ∧
        Fetched (.cmpc3 len src1 src2) [len, src1, src2] s t) ∧
    (∀ (len1 src1 fill len2 src2 : Spec) (s s1 s2 s3 s4 s5 t : State) (n1 n2 : BitVec 16) (a1 a2 : Word) (f : Byte)
      (k : Nat) (p : Option (Byte × Byte)),
      readLen len1 s.opened = .ok n1 s1 → stringAddr src1 s1 = .ok a1 s2 → readInt 8 false fill s2 = .ok f s3 →
      readLen len2 s3 = .ok n2 s4 → stringAddr src2 s4 = .ok a2 s5 →
      compareFrom f n1.toNat a1 n2.toNat a2 (max n1.toNat n2.toNat) 0 s5 = .ok (k, p) t →
        exec (.cmpc5 len1 src1 fill len2 src2) s = .next (comparedStrings n1.toNat n2.toNat a1 a2 k p t) ∧
        Fetched (.cmpc5 len1 src1 fill len2 src2) [len1, src1, fill, len2, src2] s t) ∧
    Scans .scanc true ∧ Scans .spanc false ∧ Locates .locc true ∧ Locates .skpc false ∧
    (∀ (olen oaddr slen saddr : Spec) (s s1 s2 s3 s4 t : State) (n k : BitVec 16) (o a : Word) (r : Option Nat),
      readLen olen s.opened = .ok n s1 → stringAddr oaddr s1 = .ok o s2 → readLen slen s2 = .ok k s3 →
      stringAddr saddr s3 = .ok a s4 → matchFrom n.toNat o a (k.toNat + 1 - n.toNat) 0 s4 = .ok r t →
        Fetched (.matchc olen oaddr slen saddr) [olen, oaddr, slen, saddr] s t ∧
        exec (.matchc olen oaddr slen saddr) s = .next (match r with
          | some j => (t.withRegs [(0, 0), (1, o + num n.toNat), (2, num (k.toNat - (j + n.toNat))),
              (3, a + num (j + n.toNat))]).setCC ⟨false, true, false, false⟩
          | none => (t.withRegs [(0, num n.toNat), (1, o), (2, 0), (3, a + num k.toNat)]).setCC
              ⟨false, false, false, false⟩))) ∧
  (∀ (tbl inicrc strlen stream : Spec) (s s1 s2 s3 s4 t : State) (tb c a r : Word) (n : BitVec 16),
      stringAddr tbl s.opened = .ok tb s1 → readInt 32 false inicrc s1 = .ok c s2 → readLen strlen s2 = .ok n s3 →
      stringAddr stream s3 = .ok a s4 → crcBytes tb n.toNat a c s4 = .ok r t →
        exec (.crc tbl inicrc strlen stream) s = .next ((t.withRegs
          [(0, r), (1, 0), (2, 0), (3, a + num n.toNat)]).setCC (nz r false false)) ∧
        Fetched (.crc tbl inicrc strlen stream) [tbl, inicrc, strlen, stream] s t)

/-- 45_string_decimal.md R670, R674 to R683, with memory management off and every byte in a main memory without errors: strings read, checked
and written complete; what the searches, the comparisons (the shorter string extended by the fill), the match and the CRC
find. -/
def Obligations.PlainStrings : Prop :=
  (∀ s : State, s.ipr.mapen = false → s.errs.memory = [] →
    (∀ (a : Word) (bs : List Byte), (∀ i (h : i < bs.length), s.plainByte (a + num i) = some bs[i]) →
      readBytes bs.length a s = .ok bs s) ∧
    (∀ (d : Word) (bs : List Byte), bs.length ≤ 65536 → Memory.wf s.mem = true →
      (∀ i, i < bs.length → (s.plainByte (d + num i)).isSome = true) →
      ∃ t, putString d bs s = .ok () t ∧ (∀ i (h : i < bs.length), t.plainByte (d + num i) = some bs[i]) ∧
        ∀ pa, (∀ i, i < bs.length → unmappedPa (d + num i) ≠ pa) → t.memByte pa = s.memByte pa) ∧
    (∀ (tbl a : Word) (e : Byte) (bs ts : List Byte), bs.length = ts.length →
      (∀ i (h : i < bs.length), s.plainByte (a + num i) = some bs[i]) →
      (∀ i (h : i < bs.length) (g : i < ts.length), s.plainByte (tbl + num bs[i].toNat) = some ts[i]) →
      translateBytes tbl bs.length a s = .ok ts s ∧
      translateUntil tbl e bs.length a s = .ok (ts.takeWhile (· != e)) s) ∧
    (∀ (p : Byte → M Bool) (q : Byte → Bool) (a : Word) (bs : List Byte),
      (∀ i (h : i < bs.length), s.plainByte (a + num i) = some bs[i] ∧ p bs[i] s = .ok (q bs[i]) s) →
      passOver p bs.length a s = .ok (bs.takeWhile fun b => !q b).length s) ∧
    (∀ (tbl a c : Word) (f : Nat → Word) (bs : List Byte),
      (∀ i (h : i < bs.length), s.plainByte (a + num i) = some bs[i]) →
      (∀ i, i < 16 → s.plainLong (tbl + num (4 * i)) = some (f i)) →
      crcBytes tbl bs.length a c s = .ok (bs.foldl (crcByte f) c) s)) ∧
  (∀ s : State, s.ipr.mapen = false → s.errs.memory = [] →
    (∀ (f : Byte) (a1 a2 : Word) (xs ys : List Byte) (k : Nat),
      (∀ i (h : i < xs.length), s.plainByte (a1 + num i) = some xs[i]) →
      (∀ i (h : i < ys.length), s.plainByte (a2 + num i) = some ys[i]) →
      k ≤ max xs.length ys.length → (∀ i, i < k → xs.getD i f = ys.getD i f) →
      (k < max xs.length ys.length → xs.getD k f ≠ ys.getD k f) →
      compareFrom f xs.length a1 ys.length a2 (max xs.length ys.length) 0 s =
        .ok (k, if k < max xs.length ys.length then some (xs.getD k f, ys.getD k f) else none) s) ∧
    (∀ (o a : Word) (xs ys : List Byte),
      (∀ i (h : i < xs.length), s.plainByte (o + num i) = some xs[i]) →
      (∀ i (h : i < ys.length), s.plainByte (a + num i) = some ys[i]) →
      ∃ r, matchFrom xs.length o a (ys.length + 1 - xs.length) 0 s = .ok r s ∧
        (∀ j, r = some j → (ys.drop j).take xs.length = xs ∧ j + xs.length ≤ ys.length ∧
          ∀ i, i < j → (ys.drop i).take xs.length ≠ xs) ∧
        (r = none → ∀ i, i + xs.length ≤ ys.length → (ys.drop i).take xs.length ≠ xs)))

/-! ### Decimal strings (45_string_decimal.md) -/

/-- 45_string_decimal.md R684, R687 to R689: packed strings moved, C kept, and compared; a length above 31 is a reserved operand fault
before any string is read. -/
def Obligations.PackedMovesComplete : Prop :=
  (∀ (len src dst : Spec) (s s1 s2 s3 u t : State) (n : BitVec 16) (a d : Word) (x : Int),
    readLen len s.opened = .ok n s1 → stringAddr src s1 = .ok a s2 → stringAddr dst s2 = .ok d s3 → n.toNat ≤ 31 →
    packedValue n a s3 = .ok (some x) u → Apart d n a n → putString d (wantPacked n.toNat x) u = .ok () t →
      exec (.movp len src dst) s = .next ((t.withRegs [(0, 0), (1, a), (2, 0), (3, d)]).setCC
        ⟨decide (x < 0), decide (x = 0), false, s.cc.c⟩) ∧
      Fetched (.movp len src dst) [len, src, dst] s u ∧ StringPut d (wantPacked n.toNat x) u t) ∧
  (∀ (len src1 src2 : Spec) (s s1 s2 s3 s4 t : State) (n : BitVec 16) (a b : Word) (x y : Int),
    readLen len s.opened = .ok n s1 → stringAddr src1 s1 = .ok a s2 → stringAddr src2 s2 = .ok b s3 → n.toNat ≤ 31 →
    packedValue n a s3 = .ok (some x) s4 → packedValue n b s4 = .ok (some y) t →
      exec (.cmpp3 len src1 src2) s = .next ((t.withRegs [(0, 0), (1, a), (2, 0), (3, b)]).setCC
        ⟨decide (x < y), decide (x = y), false, false⟩) ∧
      Fetched (.cmpp3 len src1 src2) [len, src1, src2] s t) ∧
  (∀ (len1 src1 len2 src2 : Spec) (s s1 s2 s3 s4 s5 t : State) (n k : BitVec 16) (a b : Word) (x y : Int),
    readLen len1 s.opened = .ok n s1 → stringAddr src1 s1 = .ok a s2 → readLen len2 s2 = .ok k s3 →
    stringAddr src2 s3 = .ok b s4 → n.toNat ≤ 31 → k.toNat ≤ 31 →
    packedValue n a s4 = .ok (some x) s5 → packedValue k b s5 = .ok (some y) t →
      exec (.cmpp4 len1 src1 len2 src2) s = .next ((t.withRegs [(0, 0), (1, a), (2, 0), (3, b)]).setCC
        ⟨decide (x < y), decide (x = y), false, false⟩) ∧
      Fetched (.cmpp4 len1 src1 len2 src2) [len1, src1, len2, src2] s t) ∧
  (∀ (len src dst : Spec) (s s1 s2 s3 : State) (n : BitVec 16) (a d : Word),
    readLen len s.opened = .ok n s1 → stringAddr src s1 = .ok a s2 → stringAddr dst s2 = .ok d s3 → 31 < n.toNat →
      Faults 0x18 [] s s3 (exec (.movp len src dst) s) ∧ Faults 0x18 [] s s3 (exec (.cmpp3 len src dst) s)) ∧
  (∀ (len1 src1 len2 src2 : Spec) (s s1 s2 s3 s4 : State) (n k : BitVec 16) (a b : Word),
    readLen len1 s.opened = .ok n s1 → stringAddr src1 s1 = .ok a s2 → readLen len2 s2 = .ok k s3 →
    stringAddr src2 s3 = .ok b s4 → 31 < n.toNat ∨ 31 < k.toNat →
      Faults 0x18 [] s s4 (exec (.cmpp4 len1 src1 len2 src2) s))

/-- 45_string_decimal.md R684, R685, R690 to R695: packed sums, differences, products and quotients, the trap on overflow; a length
above 31 is a reserved operand fault; a zero divisor leaves the quotient string, R0 to R5 and the condition codes free and traps with code 4. -/
def Obligations.PackedArithmeticCompletes : Prop :=
  Packed4 .addp4 (fun x y => y + x) ∧ Packed4 .subp4 (fun x y => y - x) ∧
  Packed6 .addp6 (fun _ => true) (fun x y => x + y) ∧ Packed6 .subp6 (fun _ => true) (fun x y => y - x) ∧
  Packed6 .mulp (fun _ => true) (fun x y => y * x) ∧ Packed6 .divp (fun x => x != 0) (fun x y => y.tdiv x) ∧
  ∀ (l1 d1 l2 d2 l3 d3 : Spec) (s s1 s2 u : State) (o : PackedOps) (y : Option Int),
    packedOps6 l1 d1 l2 d2 l3 d3 s.opened = .ok o s1 → o.n1.toNat ≤ 31 → o.n2.toNat ≤ 31 → o.nd.toNat ≤ 31 →
    packedValue o.n1 o.a1 s1 = .ok (some 0) s2 → packedValue o.n2 o.a2 s2 = .ok y u →
      ∃ bs : List Byte, bs.length = o.nd.toNat / 2 + 1 ∧
        ∀ t, putString o.d bs { u with free := u.free + bs.length } = .ok () t →
          ∃ (r0 r1 r2 r3 r4 r5 : Word) (f : CC), Traps 4 (({ t with free := t.free + 7 }.withRegs
            [(0, r0), (1, r1), (2, r2), (3, r3), (4, r4), (5, r5)]).setCC f) (exec (.divp l1 d1 l2 d2 l3 d3) s)

/-- 45_string_decimal.md R684, R686, R696 to R702: longwords to and from packed strings, the decimal shift, and packed strings to
and from numeric strings; a length above 31, and a separate string with a byte that is no sign or no digit, is a reserved operand
fault. That a conversion in place (one address and one length) gives its result where the spec leaves an
overlap open (log 36, DEDUCED), and that a zero stays zero whatever the round digit (log 38), is the model's choice. -/
def Obligations.DecimalConversionsComplete : Prop :=
  ((∀ (src len dst : Spec) (s s1 s2 u t : State) (x d : Word) (n : BitVec 16),
      readInt 32 false src s.opened = .ok x s1 → readLen len s1 = .ok n s2 → stringAddr dst s2 = .ok d u → n.toNat ≤ 31 →
      putString d (wantPacked n.toNat x.toInt) u = .ok () t →
        DecimalEnds (.cvtlp src len dst) (decimalCC n.toNat x.toInt) s (t.withRegs [(0, 0), (1, 0), (2, 0), (3, d)]) ∧
        Fetched (.cvtlp src len dst) [src, len, dst] s u ∧ StringPut d (wantPacked n.toNat x.toInt) u t) ∧
    (∀ (len src dst : Spec) (s s1 s2 s3 s4 u t : State) (n : BitVec 16) (a : Word) (l : Loc) (x : Int),
      readLen len s.opened = .ok n s1 → stringAddr src s1 = .ok a s2 → locate .write .l false dst s2 = .ok l s3 →
      n.toNat ≤ 31 → packedValue n a s3 = .ok (some x) s4 → checkStore false 32 l s4 = .ok () u →
      let w := u.withRegs [(0, 0), (1, a), (2, 0), (3, 0)]
      storeLoc false false l (wantExact 32 x).r w = .ok () t →
        (¬((wantExact 32 x).cc.v = true ∧ s.pslBit pslIV = true) →
          exec (.cvtpl len src dst) s = .next (t.setCC (wantExact 32 x).cc)) ∧
        ((wantExact 32 x).cc.v = true → s.pslBit pslIV = true →
          Traps 1 (t.setCC (wantExact 32 x).cc) (exec (.cvtpl len src dst) s)) ∧
        Fetched (.cvtpl len src dst) [len, src, dst] s s4 ∧ Quiet s u ∧ Stored l (wantExact 32 x).r w w t ∧
        Kept false l.writes (l.regs 32) w t) ∧
    (∀ (cnt slen src round dlen dst : Spec) (s s1 s2 s3 s4 s5 s6 u t : State) (k rd : Byte) (n m : BitVec 16) (a d : Word)
      (x y : Int),
      readInt 8 false cnt s.opened = .ok k s1 → readLen slen s1 = .ok n s2 → stringAddr src s2 = .ok a s3 →
      readInt 8 false round s3 = .ok rd s4 → readLen dlen s4 = .ok m s5 → stringAddr dst s5 = .ok d s6 →
      n.toNat ≤ 31 → m.toNat ≤ 31 → packedValue n a s6 = .ok (some x) u → Apart d m a n →
      (0 ≤ k.toInt → y = x * 10 ^ k.toInt.toNat) →
      (∀ j, k.toInt = -((j + 1 : Nat) : Int) →
        y = x.sign * (((x.natAbs + rd.toNat % 16 * 10 ^ j) / 10 ^ (j + 1) : Nat) : Int)) →
      putString d (wantPacked m.toNat y) u = .ok () t →
        let i := Instr.ashp cnt slen src round dlen dst
        DecimalEnds i (decimalCC m.toNat y) s (t.withRegs [(0, 0), (1, a), (2, 0), (3, d)]) ∧
        Fetched i [cnt, slen, src, round, dlen, dst] s u ∧ StringPut d (wantPacked m.toNat y) u t)) ∧
  ((∀ (slen src tbl dlen dst : Spec) (s s1 s2 s3 s4 s5 s6 u t : State) (n k : BitVec 16) (a tb d : Word) (x : Int)
      (bs : List Byte),
      readLen slen s.opened = .ok n s1 → stringAddr src s1 = .ok a s2 → stringAddr tbl s2 = .ok tb s3 →
      readLen dlen s3 = .ok k s4 → stringAddr dst s4 = .ok d s5 → n.toNat ≤ 31 → k.toNat ≤ 31 →
      packedValue n a s5 = .ok (some x) s6 → (d = a ∧ k = n ∨ overlap d k.toNat a (n.toNat / 2 + 1) = false) →
      trailingBytes tb k.toNat (x.natAbs % 10 ^ k.toNat) (decimalMinus k.toNat x) s6 = .ok bs u → putString d bs u = .ok () t →
        let i := Instr.cvtpt slen src tbl dlen dst
        DecimalEnds i (decimalCC k.toNat x) s (t.withRegs [(0, 0), (1, a), (2, 0), (3, d)]) ∧
        Fetched i [slen, src, tbl, dlen, dst] s u ∧ StringPut d bs u t) ∧
    (∀ (slen src tbl dlen dst : Spec) (s s1 s2 s3 s4 s5 u t : State) (n k : BitVec 16) (a tb d : Word) (x : Int),
      readLen slen s.opened = .ok n s1 → stringAddr src s1 = .ok a s2 → stringAddr tbl s2 = .ok tb s3 →
      readLen dlen s3 = .ok k s4 → stringAddr dst s4 = .ok d s5 → n.toNat ≤ 31 → k.toNat ≤ 31 →
      trailingValue tb n.toNat a s5 = .ok x u → (d = a ∧ k = n ∨ overlap d (k.toNat / 2 + 1) a n.toNat = false) →
      putString d (wantPacked k.toNat x) u = .ok () t →
        let i := Instr.cvttp slen src tbl dlen dst
        DecimalEnds i (decimalCC k.toNat x) s (t.withRegs [(0, 0), (1, a), (2, 0), (3, d)]) ∧
        Fetched i [slen, src, tbl, dlen, dst] s u ∧ StringPut d (wantPacked k.toNat x) u t) ∧
    (∀ (slen src dlen dst : Spec) (s s1 s2 s3 s4 u t : State) (n k : BitVec 16) (a d : Word) (x : Int),
      readLen slen s.opened = .ok n s1 → stringAddr src s1 = .ok a s2 → readLen dlen s2 = .ok k s3 →
      stringAddr dst s3 = .ok d s4 → n.toNat ≤ 31 → k.toNat ≤ 31 → packedValue n a s4 = .ok (some x) u →
      (d = a ∧ k = n ∨ overlap d (k.toNat + 1) a (n.toNat / 2 + 1) = false) →
      let bs := separateBytes k.toNat (x.natAbs % 10 ^ k.toNat) (decimalMinus k.toNat x)
      putString d bs u = .ok () t →
        let i := Instr.cvtps slen src dlen dst
        DecimalEnds i (decimalCC k.toNat x) s (t.withRegs [(0, 0), (1, a), (2, 0), (3, d)]) ∧
        Fetched i [slen, src, dlen, dst] s u ∧ StringPut d bs u t) ∧
    (∀ (slen src dlen dst : Spec) (s s1 s2 s3 s4 u t : State) (n k : BitVec 16) (a d : Word) (m : Nat) (neg : Bool),
      readLen slen s.opened = .ok n s1 → stringAddr src s1 = .ok a s2 → readLen dlen s2 = .ok k s3 →
      stringAddr dst s3 = .ok d s4 → n.toNat ≤ 31 → k.toNat ≤ 31 → m < 10 ^ n.toNat →
      (readBytes (n.toNat + 1) a s4 = .ok (separateBytes n.toNat m neg) u ∨
        (neg = false ∧ readBytes (n.toNat + 1) a s4 = .ok (0x20 :: (separateBytes n.toNat m neg).tail) u)) →
      (d = a ∧ k = n ∨ overlap d (k.toNat / 2 + 1) a (n.toNat + 1) = false) →
      let x : Int := if neg then -(m : Int) else m
      putString d (wantPacked k.toNat x) u = .ok () t →
        let i := Instr.cvtsp slen src dlen dst
        DecimalEnds i (decimalCC k.toNat x) s (t.withRegs [(0, 0), (1, a), (2, 0), (3, d)]) ∧
        Fetched i [slen, src, dlen, dst] s u ∧ StringPut d (wantPacked k.toNat x) u t)) ∧
  ((∀ (src len dst : Spec) (s s1 s2 u : State) (x d : Word) (n : BitVec 16),
      readInt 32 false src s.opened = .ok x s1 → readLen len s1 = .ok n s2 → stringAddr dst s2 = .ok d u → 31 < n.toNat →
        Faults 0x18 [] s u (exec (.cvtlp src len dst) s)) ∧
    (∀ (len src dst : Spec) (s s1 s2 u : State) (n : BitVec 16) (a : Word) (l : Loc),
      readLen len s.opened = .ok n s1 → stringAddr src s1 = .ok a s2 → locate .write .l false dst s2 = .ok l u →
      31 < n.toNat → Faults 0x18 [] s u (exec (.cvtpl len src dst) s)) ∧
    (∀ (cnt slen src round dlen dst : Spec) (s s1 s2 s3 s4 s5 u : State) (k rd : Byte) (n m : BitVec 16) (a d : Word),
      readInt 8 false cnt s.opened = .ok k s1 → readLen slen s1 = .ok n s2 → stringAddr src s2 = .ok a s3 →
      readInt 8 false round s3 = .ok rd s4 → readLen dlen s4 = .ok m s5 → stringAddr dst s5 = .ok d u →
      31 < n.toNat ∨ 31 < m.toNat → Faults 0x18 [] s u (exec (.ashp cnt slen src round dlen dst) s)) ∧
    (∀ (slen src tbl dlen dst : Spec) (s s1 s2 s3 s4 u : State) (n k : BitVec 16) (a tb d : Word),
      readLen slen s.opened = .ok n s1 → stringAddr src s1 = .ok a s2 → stringAddr tbl s2 = .ok tb s3 →
      readLen dlen s3 = .ok k s4 → stringAddr dst s4 = .ok d u →
        (31 < n.toNat ∨ 31 < k.toNat → Faults 0x18 [] s u (exec (.cvtpt slen src tbl dlen dst) s) ∧
          Faults 0x18 [] s u (exec (.cvttp slen src tbl dlen dst) s)) ∧
        (∀ v : State, n.toNat ≤ 31 → k.toNat ≤ 31 → trailingValue tb n.toNat a u = .error (.fault 0x18 []) v →
          Faults 0x18 [] s v (exec (.cvttp slen src tbl dlen dst) s))) ∧
    (∀ (slen src dlen dst : Spec) (s s1 s2 s3 u : State) (n k : BitVec 16) (a d : Word),
      readLen slen s.opened = .ok n s1 → stringAddr src s1 = .ok a s2 → readLen dlen s2 = .ok k s3 →
      stringAddr dst s3 = .ok d u →
        (31 < n.toNat ∨ 31 < k.toNat → Faults 0x18 [] s u (exec (.cvtps slen src dlen dst) s) ∧
          Faults 0x18 [] s u (exec (.cvtsp slen src dlen dst) s)) ∧
        (∀ (b : Byte) (bs : List Byte) (v : State), n.toNat ≤ 31 → k.toNat ≤ 31 → readBytes (n.toNat + 1) a u = .ok (b :: bs) v →
          b ∉ [0x2B, 0x20, 0x2D] ∨ (∃ c ∈ bs, c.toNat < 0x30 ∨ 0x39 < c.toNat) →
            Faults 0x18 [] s v (exec (.cvtsp slen src dlen dst) s))))

/-- 45_string_decimal.md R684 to R686: a number of n digits packed, then unpacked, is itself; its bytes; its digits; the
value a packed string has by its half bytes, none where one is not valid; R698, R699: the value a trailing numeric string has by
its digits and the translation of its last byte, its faults, and the bytes it is written as. That the leading digits are checked
before the table is read is the model's choice (log 50), and that invalid packed contents give a free value, not a fault, is log
13's. -/
def Obligations.PackedFormat : Prop :=
  ((∀ (n m : Nat) (neg : Bool), m < 10 ^ n →
    unpack n (packDecimal n m neg) = some ⟨digitsOf n m, neg⟩ ∧ (packDecimal n m neg).length = n / 2 + 1 ∧
    digitsValue (digitsOf n m) = m ∧ (digitsOf n m).length = n ∧ ∀ d ∈ digitsOf n m, d < 10) ∧
  (∀ (n : Nat) (bs : List Byte) (d : Digits), unpack n bs = some d → bs.length = n / 2 + 1 →
    d.digits.length = n ∧ (∀ x ∈ d.digits, x < 10) ∧ digitsOf n (digitsValue d.digits) = d.digits ∧
    (d.neg = true ↔ (bs.getLastD 0).toNat % 16 = 11 ∨ (bs.getLastD 0).toNat % 16 = 13)) ∧
  (∀ (n m : Nat) (neg : Bool) (i : Nat), i < n →
    (separateBytes n m neg).getD (i + 1) 0 = BitVec.ofNat 8 (0x30 + m / 10 ^ (n - 1 - i) % 10) ∧
    (separateBytes n m neg).getD 0 0 = if neg then 0x2D else 0x2B)) ∧
  ((∀ (n : BitVec 16) (a : Word) (s t : State) (bs : List Byte), readBytes (n.toNat / 2 + 1) a s = .ok bs t →
      let j := (n.toNat + 1) % 2
      let sign := nibbleAt bs (j + n.toNat)
      let m : Int := decimalSum (fun k => nibbleAt bs (j + k)) n.toNat
      let valid := (∀ k, k < n.toNat → nibbleAt bs (j + k) < 10) ∧ 10 ≤ sign ∧ (j = 1 → nibbleAt bs 0 = 0)
      (valid → packedValue n a s = .ok (some (if sign = 11 ∨ sign = 13 then -m else m)) t) ∧
      (¬valid → packedValue n a s = .ok none t)) ∧
    (∀ (tbl a : Word) (s : State), trailingValue tbl 0 a s = .ok 0 s ∧ trailingBytes tbl 0 0 false s = .ok [] s) ∧
    (∀ (n : Nat) (tbl a : Word) (s t : State) (bs : List Byte), 0 < n → readBytes n a s = .ok bs t →
      let digit (k : Nat) : Nat := (bs.getD k 0).toNat - 0x30
      let valid := ∀ k, k + 1 < n → 0x30 ≤ (bs.getD k 0).toNat ∧ (bs.getD k 0).toNat ≤ 0x39
      (¬valid → trailingValue tbl n a s = .error (.fault 0x18 []) t) ∧
      (∀ b u, valid → memReadByte (tbl + (bs.getD (n - 1) 0).setWidth 32) t = .ok b u →
        let hi := b.toNat / 16
        let lo := b.toNat % 16
        let m : Int := decimalSum (fun k => if k + 1 = n then hi else digit k) n
        (9 < hi ∨ lo < 10 → trailingValue tbl n a s = .error (.fault 0x18 []) u) ∧
        (hi < 10 → 10 ≤ lo → trailingValue tbl n a s = .ok (if lo = 11 ∨ lo = 13 then -m else m) u))) ∧
    (∀ (n m : Nat) (neg : Bool) (tbl : Word) (s t : State) (b : Byte), 0 < n →
      memReadByte (tbl + num (16 * (m % 10) + if neg then 13 else 12)) s = .ok b t →
      ∃ bs, trailingBytes tbl n m neg s = .ok bs t ∧ bs.length = n ∧ bs.getD (n - 1) 0 = b ∧
        ∀ k, k + 1 < n → bs.getD k 0 = BitVec.ofNat 8 (0x30 + m / 10 ^ (n - 1 - k) % 10)))

/-- 45_string_decimal.md R670, R684, R703, R704: an edit whose pattern consumes every digit, its destination apart from the source and
the pattern, writes at each address put the byte last put there, once, lowest address first, after write checks in that order, and
no other byte, and leaves its pointers and the sign of a value not zero in N; the fault of a length above 31, and those of its
pattern, before any byte is written
(decision D35); how a pattern is run, operator by operator, and what each operator does to the state of an edit. That a
byte is written only after the whole pattern has been run, and that only the bytes put count as the destination, is the model's
reading (logs 13 and 35). -/
def Obligations.EditpcCompletes : Prop :=
  (∀ (len src pattern dst : Spec) (s s1 s2 s3 s4 s5 : State) (n : BitVec 16) (a p d : Word) (x : Digits),
      readLen len s.opened = .ok n s1 → stringAddr src s1 = .ok a s2 → stringAddr pattern s2 = .ok p s3 →
      stringAddr dst s3 = .ok d s4 → n.toNat ≤ 31 → readPacked n a s4 = .ok (some x) s5 →
      let i := Instr.editpc len src pattern dst
      let e0 : Edit := ⟨x.digits, 0x20, if x.neg then 0x2D else 0x20, x.neg, true, false, false, p, d, []⟩
      (∀ e u v t, Edit.run (2 ^ 32) e0 s5 = .ok e u → e.digits = [] →
        (∀ y ∈ e.out, overlap y.1 1 a (n.toNat / 2 + 1) = false ∧ overlap y.1 1 p ((e.pp - p).toNat + 1) = false) →
        checkOut (e.bytes d) u = .ok () v → writeOut (e.bytes d) v = .ok () t →
          DecimalEnds i ⟨e.neg && !e.z, e.z, e.v, e.sig⟩ s
            (t.withRegs [(0, num n.toNat), (1, a), (2, 0), (3, e.pp), (4, 0), (5, e.dp)]) ∧
          Fetched i [len, src, pattern, dst] s u ∧ Kept false true [] u v ∧ Quiet s v ∧
          OutStored (e.bytes d) v t ∧ Kept false true [] u t) ∧
      (∀ e u, Edit.run (2 ^ 32) e0 s5 = .ok e u → e.digits ≠ [] → Faults 0x18 [] s u (exec i s)) ∧
      (∀ vec ps u, Edit.run (2 ^ 32) e0 s5 = .error (.fault vec ps) u → Faults vec ps s u (exec i s))) ∧
  (∀ (len src pattern dst : Spec) (s s1 s2 s3 s4 : State) (n : BitVec 16) (a p d : Word),
      readLen len s.opened = .ok n s1 → stringAddr src s1 = .ok a s2 → stringAddr pattern s2 = .ok p s3 →
      stringAddr dst s3 = .ok d s4 → 31 < n.toNat → Faults 0x18 [] s s4 (exec (.editpc len src pattern dst) s)) ∧
  (∀ (e : Edit) (d : Word), LastPut d e.out (e.bytes d)) ∧
  (∀ (k : Nat) (e : Edit) (s t : State) (b : Byte), memReadByte e.pp s = .ok b t →
    (b = 0 → Edit.run (k + 1) e s = .ok e t) ∧
    (b.toNat / 8 = 8 → ∀ ch u f v, memReadByte (e.pp + 1) t = .ok ch u → e.withByte b.toNat ch u = .ok f v →
      Edit.run (k + 1) e s = Edit.run k { f with pp := e.pp + 2 } v) ∧
    (b ≠ 0 → b.toNat / 8 ≠ 8 →
      (∀ f u, e.plain b.toNat t = .ok f u → Edit.run (k + 1) e s = Edit.run k { f with pp := e.pp + 1 } u) ∧
      (∀ x u, e.plain b.toNat t = .error x u → Edit.run (k + 1) e s = .error x u)) ∧
    ((4 < b.toNat ∧ b.toNat < 0x40) ∨ (0x48 ≤ b.toNat ∧ b.toNat ≤ 0x80) ∨ b = 0x90 ∨ b = 0xA0 ∨ 0xB0 ≤ b.toNat →
      Edit.run (k + 1) e s = .error (.fault 0x18 []) t)) ∧
  (∀ (e : Edit) (s : State) (ch : Byte),
    e.plain 1 s = .ok (if e.sig then e else { e.put e.sign with sig := true }) s ∧
    e.plain 2 s = .ok { e with sig := false } s ∧ e.plain 3 s = .ok { e with sig := true } s ∧
    e.plain 4 s = .ok (e.put e.sign) s ∧
    (∀ b, e.put b = { e with out := (e.dp, b) :: e.out, dp := e.dp + 1 }) ∧
    (∀ r, 0 < r → r < 16 →
      e.plain (0x80 + r) s = .ok { e with
        dp := e.dp + num r
        out := (List.range r).reverse.map (fun j => (e.dp + num j, e.fill)) ++ e.out } s ∧
      (e.digits.length < r → e.plain (0x90 + r) s = .error (.fault 0x18 []) s ∧
        e.plain (0xA0 + r) s = .error (.fault 0x18 []) s)) ∧
    (∀ d ds, e.digits = d :: ds →
      e.plain 0x91 s = .ok (let f := { e with digits := ds, sig := e.sig || d != 0, z := e.z && d == 0 }
        f.put (if f.sig then BitVec.ofNat 8 (0x30 + d) else e.fill)) s ∧
      e.plain 0xA1 s = .ok (let g := if d != 0 && !e.sig then e.put e.sign else e
        let f := { g with digits := ds, sig := e.sig || d != 0, z := e.z && d == 0 }
        f.put (if f.sig then BitVec.ofNat 8 (0x30 + d) else e.fill)) s) ∧
    (∀ r f, 0 < r → r < 15 →
      (e.plain 0x91 s = .ok f s → e.plain (0x91 + r) s = f.plain (0x90 + r) s) ∧
      (e.plain 0xA1 s = .ok f s → e.plain (0xA1 + r) s = f.plain (0xA0 + r) s)) ∧
    e.withByte 0x40 ch s = .ok { e with fill := ch } s ∧ e.withByte 0x41 ch s = .ok { e with sign := ch } s ∧
    e.withByte 0x42 ch s = .ok (if e.neg then e else { e with sign := ch }) s ∧
    e.withByte 0x43 ch s = .ok (if e.neg then { e with sign := ch } else e) s ∧
    e.withByte 0x44 ch s = .ok (e.put (if e.sig then ch else e.fill)) s ∧
    e.withByte 0x45 ch s = .ok (if e.z then
      { e with out := (List.range ch.toNat).map (fun j => (e.dp - num (j + 1), e.fill)) ++ e.out } else e) s ∧
    e.withByte 0x46 ch s = .ok (if e.z then { e with out := (e.dp - num ch.toNat, e.fill) :: e.out } else e) s ∧
    (31 < ch.toNat → e.withByte 0x47 ch s = .error (.fault 0x18 []) s) ∧
    (ch.toNat ≤ 31 → e.digits.length ≤ ch.toNat →
      e.withByte 0x47 ch s = .ok { e with digits := List.replicate (ch.toNat - e.digits.length) 0 ++ e.digits } s) ∧
    (ch.toNat ≤ 31 → ch.toNat < e.digits.length →
      let lost := e.digits.take (e.digits.length - ch.toNat)
      let f : Edit := { e with digits := e.digits.drop (e.digits.length - ch.toNat) }
      ((∀ d ∈ lost, d = 0) → e.withByte 0x47 ch s = .ok f s) ∧
      ((∃ d ∈ lost, d ≠ 0) → e.withByte 0x47 ch s = .ok { f with z := false, v := true, sig := true } s)))

/-! ### Encoding (30_encoding.md) -/

/-- 30_encoding.md R240 to R264: whatever follows it in the stream, a well-formed instruction is read back from its bytes. -/
def Obligations.DecodeEncode : Prop :=
  ∀ (i : Instr) (rest : List Byte), i.WellFormed = true → decode (encode i ++ rest) = .ok (i, rest)

/-- 30_encoding.md R240 to R264: the bytes an instruction was read from are its encoding, and it is well formed; every list of
bytes is read, but for one that ends inside an instruction. -/
def Obligations.EncodeDecode : Prop := ∀ bs : List Byte,
  (∀ (i : Instr) (rest : List Byte), decode bs = .ok (i, rest) → i.WellFormed = true ∧ encode i ++ rest = bs) ∧
  decode bs ≠ .error .malformed ∧
  (decode bs = .error .truncated → ∃ more, ∃ i, decode (bs ++ more) = .ok (i, []))

/-- 30_encoding.md R249, R253, R260, R264 and the opcode table: some words written out from their encodings. -/
def Obligations.DecodesWords : Prop :=
  decode [0xD0, 0x51, 0x52] = .ok (.movl (.reg 1) (.reg 2), []) ∧
  decode [0xC1, 0x05, 0x62, 0x7E] = .ok (.addl3 (.lit 5) (.base (.regDef 2)) (.base (.autoDec 14)), []) ∧
  decode [0xD0, 0x8F, 0x78, 0x56, 0x34, 0x12, 0x50] = .ok (.movl (.base (.imm 0x12345678)) (.reg 0), []) ∧
  decode [0xB0, 0x9F, 0x00, 0x30, 0x00, 0x00, 0xA3, 0xFC] =
    .ok (.movw (.base (.abs 0x3000)) (.base (.dispB 3 0xFC)), []) ∧
  decode [0x90, 0x41, 0x82, 0xD4, 0x34, 0x12] =
    .ok (.movb (.index 1 (.autoInc 2)) (.base (.dispWDef 4 0x1234)), []) ∧
  decode [0x31, 0xFE, 0xFF] = .ok (.brw 0xFFFE, []) ∧
  decode [0x12, 0x80] = .ok (.bneq 0x80, []) ∧
  decode [0x55, 0x10, 0x02, 0x9F, 0x00, 0x30, 0x00, 0x00] = .ok (.polyf (.lit 0x10) (.lit 2) (.base (.abs 0x3000)), []) ∧
  decode [0xBC, 0x07] = .ok (.chmk (.lit 7), []) ∧ decode [0xDA, 0x1F, 0x12] = .ok (.mtpr (.lit 0x1F) (.lit 0x12), []) ∧
  decode [0x34, 0x03, 0x66, 0x67] = .ok (.movp (.lit 3) (.base (.regDef 6)) (.base (.regDef 7)), []) ∧
  decode [0x28, 0x04, 0x66, 0x67] = .ok (.movc3 (.lit 4) (.base (.regDef 6)) (.base (.regDef 7)), []) ∧
  decode [0xFF] = .ok (.escf, [])

/-- 30_encoding.md R250 to R261, R265: where an operand is, by addressing mode, and the registers its evaluation changes; an
operand based on SP is refused while SP, once stepped down, points into I/O space (20_memory.md R230, decision D19). 10_state.md R40, 20_memory.md
R140, R170, R190: the value read there: a literal's, that of a register or a pair, or of the bytes in memory, the first the least
significant, at the addresses of one page or of two. 64_memory_controller.md R867, R868, R876, R880: a byte in a quadword with an
error: corrected when it is read or written, an interrupt requested unless the controller holds CRD back; or, with two bits wrong, not
read, and not changed by a write. That every read of the program reaches the array, and what Register C keeps of an error (log 16,
DEDUCED), is the model's choice. So is the reserved addressing mode fault of a specifier that R265 reserves and R254 or R266 calls
UNPREDICTABLE too: an index register PC before 6F, 7F or 8F, and, where an address is wanted, the registers 5F, and 5E of an operand
of 8 bytes (log 12, DESIGN CHOICE). -/
def Obligations.OperandModes : Prop :=
  (∀ (acc : Access) (ty : DType) (io : Bool) (s : State),
  let based (b : BaseSpec) : Prop :=
    baseRegister b = some rSP → s.pointsToIo (match b with | .autoDec _ => s.sp - BitVec.ofNat 32 ty.size | _ => s.sp) = false
  let at_ (sp : Spec) : State := s.setPc (s.pc + BitVec.ofNat 32 (sp.length ty))
  let size : Word := BitVec.ofNat 32 ty.size
  (∀ v, acc = .read → locate acc ty io (.lit v) s = .ok
    (.const (if ty = .f ∨ ty = .d then BitVec.ofNat 64 (0x4000 + 16 * v.toNat) else BitVec.ofNat 64 v.toNat)) (at_ (.lit v))) ∧
  (∀ v, acc ≠ .read → locate acc ty io (.lit v) s = .error (.fault 0x1C []) (at_ (.lit v))) ∧
  (∀ n, acc ≠ .address → n ≠ rPC → ¬(n = rSP ∧ ty.size = 8) → locate acc ty io (.reg n) s = .ok (.reg n) (at_ (.reg n))) ∧
  (∀ n, acc = .address → locate acc ty io (.reg n) s = .error (.fault 0x1C []) (at_ (.reg n))) ∧
  (∀ v, acc = .read → locate acc ty io (.base (.imm v)) s = .ok (.const v) (at_ (.base (.imm v)))) ∧
  (∀ v, acc = .address ∨ acc = .field → locate acc ty io (.base (.imm v)) s =
    .ok (.mem ((at_ (.base (.imm v))).pc - size)) (at_ (.base (.imm v)))) ∧
  (∀ n, n ≠ rPC →
    (based (.regDef n) → locate acc ty io (.base (.regDef n)) s = .ok (.mem (s.reg n)) (at_ (.base (.regDef n)))) ∧
    (based (.autoDec n) → locate acc ty io (.base (.autoDec n)) s =
      .ok (.mem (s.reg n - size)) ((at_ (.base (.autoDec n))).setReg n (s.reg n - size))) ∧
    (based (.autoInc n) → locate acc ty io (.base (.autoInc n)) s =
      .ok (.mem (s.reg n)) ((at_ (.base (.autoInc n))).setReg n (s.reg n + size))) ∧
    ∀ p t, based (.autoIncDef n) → loadVirtIn s.cur io false false (s.reg n) 4 ((at_ (.base (.autoIncDef n))).setReg n (s.reg n + 4)) = .ok p t →
      locate acc ty io (.base (.autoIncDef n)) s = .ok (.mem (BitVec.ofNat 32 p)) t) ∧
  (∀ a, locate acc ty io (.base (.abs a)) s = .ok (.mem a) (at_ (.base (.abs a)))) ∧
  (∀ n d, based (.dispB n d) → locate acc ty io (.base (.dispB n d)) s =
    .ok (.mem ((at_ (.base (.dispB n d))).reg n + d.signExtend 32)) (at_ (.base (.dispB n d)))) ∧
  (∀ n d, based (.dispW n d) → locate acc ty io (.base (.dispW n d)) s =
    .ok (.mem ((at_ (.base (.dispW n d))).reg n + d.signExtend 32)) (at_ (.base (.dispW n d)))) ∧
  (∀ n d, based (.dispL n d) → locate acc ty io (.base (.dispL n d)) s =
    .ok (.mem ((at_ (.base (.dispL n d))).reg n + d)) (at_ (.base (.dispL n d)))) ∧
  (∀ n d p t, based (.dispBDef n d) → loadVirtIn s.cur io false false ((at_ (.base (.dispBDef n d))).reg n + d.signExtend 32) 4
      (at_ (.base (.dispBDef n d))) = .ok p t →
    locate acc ty io (.base (.dispBDef n d)) s = .ok (.mem (BitVec.ofNat 32 p)) t) ∧
  (∀ n d p t, based (.dispWDef n d) → loadVirtIn s.cur io false false ((at_ (.base (.dispWDef n d))).reg n + d.signExtend 32) 4
      (at_ (.base (.dispWDef n d))) = .ok p t →
    locate acc ty io (.base (.dispWDef n d)) s = .ok (.mem (BitVec.ofNat 32 p)) t) ∧
  (∀ n d p t, based (.dispLDef n d) → loadVirtIn s.cur io false false ((at_ (.base (.dispLDef n d))).reg n + d) 4
      (at_ (.base (.dispLDef n d))) = .ok p t →
    locate acc ty io (.base (.dispLDef n d)) s = .ok (.mem (BitVec.ofNat 32 p)) t) ∧
  (∀ x b a t, x ≠ rPC → indexUnpredictable x b = false → based b →
    evalBase ty.size io b (at_ (.index x b)) = .ok a t →
    locate acc ty io (.index x b) s = .ok (.mem (a + t.reg x * size)) t) ∧
  (∀ b, locate acc ty io (.index rPC b) s = .error (.fault 0x1C []) (at_ (.index rPC b))) ∧
  (∀ x b, locate acc ty io (.indexBad x b) s = .error (.fault 0x1C []) (at_ (.indexBad x b))) ∧
  (∀ b, ¬based b →
    locate acc ty io (.base b) s = .error (.refuse .ioSpaceReference) (at_ (.base b)) ∧
    ∀ x, x ≠ rPC → indexUnpredictable x b = false →
      locate acc ty io (.index x b) s = .error (.refuse .ioSpaceReference) (at_ (.index x b)))) ∧
  (∀ (w : Nat) (io ilk intent : Bool) (s t : State),
    (∀ sp l, locate .read (intType w) io sp s = .ok l t → readOp w sp io s = loadLoc w io false false l t) ∧
    (∀ v, loadLoc w io ilk intent (.const v) s = .ok (BitVec.ofNat w v.toNat) s) ∧
    (∀ n, loadLoc w io ilk intent (.reg n) s = .ok (BitVec.ofNat w
      (if w ≤ 32 then (s.reg n).toNat else (s.reg (n + 1)).toNat * 2 ^ 32 + (s.reg n).toNat)) s) ∧
    (∀ ea pas bs, translateRange io ea (w / 8) intent s.cur s = .ok pas t → touchesIo pas = false → t.errs.memory = [] →
      pas.map t.memByte = bs.map some → loadLoc w io ilk intent (.mem ea) s = .ok (BitVec.ofNat w (littleEndian bs)) t) ∧
    (∀ mode va n pas bs, translateRange io va n intent mode s = .ok pas t → touchesIo pas = false → t.errs.memory = [] →
      pas.map t.memByte = bs.map some → loadVirtIn mode io ilk intent va n s = .ok (littleEndian bs) t)) ∧
  (∀ (s : State) (pa c : Nat), s.cell pa = some c → Memory.wf s.mem = true →
    let b := memRead s.mem c
    (s.errorAt c = none →
      cpuLoadByte pa s = .ok b s ∧ ∀ v, ∃ t, cpuStoreByte pa v s = .ok () t ∧ t.memByte pa = some v ∧ t.errs = s.errs) ∧
    (∀ e, s.errorAt c = some e → e.double = false →
      (∃ t, cpuLoadByte pa s = .ok b t ∧ t.mem = s.mem ∧ t.errorAt c = none ∧
        (∀ d, d / 8 ≠ c / 8 → t.errorAt d = s.errorAt d) ∧
        ∀ bank k, s.bankOf c = some (bank, k) → k < s.errs.regC.length →
          let r := s.errs.regC.getD k 0
          let r' := t.errs.regC.getD k 0
          r'.getLsbD 28 = true ∧ r'.getLsbD 30 = r.getLsbD 30 ∧ r'.getLsbD 29 = (r.getLsbD 29 || r.getLsbD 28) ∧
          t.errs.requests = if r.getLsbD 28 || r.getLsbD 30 then s.errs.requests else s.errs.requests ||| 8) ∧
      ∀ v, ∃ t, cpuStoreByte pa v s = .ok () t ∧ t.memByte pa = some v ∧ t.errorAt c = none) ∧
    (∀ e, s.errorAt c = some e → e.double = true →
      (∃ t, cpuLoadByte pa s = .error .readData t ∧ t.mem = s.mem ∧ t.errs.memory = s.errs.memory ∧
        t.errs.requests = s.errs.requests) ∧
      ∀ v, cpuStoreByte pa v s = .ok () s)) ∧
  (∀ (io : Bool) (va : Word) (n : Nat) (write : Bool) (mode : Mode) (s t u : State) (pa pa2 : Nat),
    let first := 512 - va.toNat % 512
    let from_ (a k : Nat) : List Nat := (List.range k).map fun i => (a + i) % 2 ^ 30
    (s.ipr.mapen = false → translateRange io va n write mode s = .ok (from_ va.toNat n) s) ∧
    (s.ipr.mapen = true → n ≤ first → translate io va write mode s = .ok pa t →
      translateRange io va n write mode s = .ok (from_ pa n) t) ∧
    (s.ipr.mapen = true → first < n → translate io va false mode s = .ok pa t →
      translate io (va + num first) false mode t = .ok pa2 u →
      translateRange io va n false mode s = .ok (from_ pa first ++ from_ pa2 (n - first)) u))

/-! ### The step (60_exceptions.md R1232) -/

/-- 60_exceptions.md R1232 step 5, 30_encoding.md R243: a step at which no halt, interrupt or trace is due runs the
instruction that is fetched; with memory management off, a main memory without errors and no stale bytes nor prefetched ones, that is
the one whose bytes stand at PC. -/
def Obligations.StepRunsDecoded : Prop := ∀ (s : State) (i : Instr), Ready s →
  (∀ t, fetchInstr s.fetching = .ok (some i) t → step s = exec i t) ∧
  (s.ipr.mapen = false → s.errs.memory = [] → s.stale = [] → s.prefetched = [] → i.WellFormed = true →
    (∀ k (h : k < (encode i).length), s.plainByte (s.pc + num k) = some (encode i)[k]) → step s = exec i s.fetching)

/-- 60_exceptions.md R1232: a halted processor, or one whose clock is stopped (62_console.md R752), stays as it is; a console
halt comes first, then the highest interrupt, then
the trace fault, which clears TP. -/
def Obligations.StepOrder : Prop := ∀ s : State, s.agenda = [] →
  (s.run.halted = true ∨ s.console.clockStopped = true → step s = .next s) ∧
  (s.run.halted = false → s.console.clockStopped = false → s.run.haltReq = true ∨ s.run.stepsLeft = some 0 →
    ∃ t, step s = .next t ∧ t.run.halted = true ∧ t.run.why = .console ∧ t.console.programIo = false ∧ t.regs = s.regs ∧
      t.psl = s.psl ∧ t.mem = s.mem ∧ t.ipr = s.ipr) ∧
  (s.run.halted = false → s.console.clockStopped = false → s.run.haltReq = false → s.run.stepsLeft ≠ some 0 →
    let u : State := { s with run := { s.run with stepsLeft := s.run.stepsLeft.map (· - 1) } }
    (∀ l src, s.pendingInterrupt = some (l, src) →
      Takes ⟨src.vector l (Config.freeValue s.free), [], s.pc, s.psl, some (BitVec.ofNat 5 l), none⟩ (u.acknowledge l src)
        (step s)) ∧
    (s.pendingInterrupt = none → s.psl.getLsbD 30 = true →
      Takes ⟨0x28, [], s.pc, s.psl &&& 0xBFFFFFFF, none, none⟩ { u with psl := s.psl &&& 0xBFFFFFFF } (step s)))

/-- 60_exceptions.md R1160, R1171, R1172: the interrupt taken is of the highest requested level above IPL, through its
source's vector. At one level the order is that of decision D28; that the timer comes before an error at level 18, and that an
error's vector is some longword of the SCB's first page, is the model's choice (log 51). -/
def Obligations.InterruptsArbitrated : Prop := ∀ s : State,
  (∀ l src, s.pendingInterrupt = some (l, src) ↔
    s.ipl.toNat < l ∧ l ≤ 31 ∧ s.requestAt l = some src ∧ ∀ k, l < k → k ≤ 31 → s.requestAt k = none) ∧
  (s.pendingInterrupt = none ↔ ∀ k, s.ipl.toNat < k → k ≤ 31 → s.requestAt k = none) ∧
  (∀ l, 1 ≤ l → l ≤ 15 → s.requestAt l = if s.ipr.sisr.getLsbD l then some (.software l) else none) ∧
  (s.requestAt 0x18 = if s.ipr.timerReq then some .timer else if s.errs.requests.getLsbD 0 then some .busError else none) ∧
  (∀ l, 0x19 ≤ l → l ≤ 0x1D → s.requestAt l = if s.errs.requests.getLsbD (l - 0x18) then some .busError else none) ∧
  (s.requestAt 0x1E = if s.ipr.powerReq then some .powerFail else none) ∧
  (s.requestAt 0x14 = if s.ipr.rxReq then some .consoleReceive else if s.ipr.txReq then some .consoleTransmit
    else (s.firstNexus 4).map .nexus) ∧
  (∀ l, 0x15 ≤ l → l ≤ 0x17 → s.requestAt l = (s.firstNexus (l - 0x10)).map .nexus) ∧
  (∀ br tr, s.firstNexus br = some tr → tr < 16 ∧ s.nexusRequests br tr = true ∧
    ∀ k, k < tr → s.nexusRequests br k = false) ∧
  (∀ l n tr x, (IntSource.software n).vector l x = 0x80 + 4 * n ∧
    (IntSource.nexus tr).vector l x = 0x100 + 0x40 * (l - 0x14) + 4 * tr ∧ IntSource.timer.vector l x = 0xC0 ∧
    IntSource.powerFail.vector l x = 0x0C ∧ IntSource.consoleReceive.vector l x = 0xF8 ∧
    IntSource.consoleTransmit.vector l x = 0xFC ∧ IntSource.busError.vector l x % 4 = 0 ∧
    IntSource.busError.vector l x < 512)

/-- 60_exceptions.md R1191, R1196, R1200, R1205, R1206: an illegal vector halts; a push that faults, or that meets a memory
error, halts on the interrupt stack, and one that faults on the kernel stack leads to the kernel stack not valid abort; a machine
check goes through vector 4, that of an operand that meets a double-bit error too (20_memory.md R235; 64_memory_controller.md R880).
What the halted state holds (log 24, DEDUCED), that a memory error while a machine check is initiated is the other halt (log 24),
and that SBITA keeps the address of the machine check (log 25) is the model's choice. -/
def Obligations.EventFailures : Prop :=
  (∀ (e : Event) (s r : State) (v : Word), physReadLong true (s.ipr.scbb.toNat + e.vec) s = .ok v r → e.chm = none →
    (v.toNat % 4 = 3 ∨ (v.toNat % 4 = 0 ∧ (e.vec = 4 ∨ e.vec = 8))) →
    ∃ t, initiate e s = .next t ∧ t.run.halted = true ∧ t.run.why = .illegalVector ∧ t.pc = e.pc ∧ t.psl = e.psl ∧
      t.mem = s.mem ∧ ∀ n, n ≠ rPC → t.reg n = s.reg n) ∧
  (∀ (e : Event) (s r t : State) (v : Word) (vec : Nat) (ps : List Word),
    physReadLong true (s.ipr.scbb.toNat + e.vec) s = .ok v r →
    e.chm = none → (v.toNat % 4 = 1 ∨ (v.toNat % 4 = 0 ∧ e.vec ≠ 4 ∧ e.vec ≠ 8)) →
    pushAllIn 0 true (e.psl :: e.pc :: e.params) (r.eventStack (decide (v.toNat % 4 = 1)) 0) = .error (.fault vec ps) t →
    (s.onIntStack = true ∨ v.toNat % 4 = 1 → ∃ x, initiate e s = .next x ∧ x.run.halted = true ∧
      x.run.why = .intStackInvalid ∧ x.pc = e.pc ∧ x.psl = e.psl) ∧
    (s.onIntStack = false → v.toNat % 4 = 0 →
      Takes ⟨8, [], e.pc, e.psl, none, none⟩ (t.withRegsOf s) (initiate e s))) ∧
  (∀ (e : Event) (s r t : State) (v : Word) (why : Trap), physReadLong true (s.ipr.scbb.toNat + e.vec) s = .ok v r →
    e.chm = none → (why = .readData ∨ ∃ pa, why = .machineCheck pa) → e.vec ≠ 4 → (v.toNat % 4 = 1 ∨ (v.toNat % 4 = 0 ∧ e.vec ≠ 8 ∧ s.onIntStack = true)) →
    pushAllIn 0 true (e.psl :: e.pc :: e.params) (r.eventStack (decide (v.toNat % 4 = 1)) 0) = .error why t →
    ∃ x, initiate e s = .next x ∧ x.run.halted = true ∧ x.run.why = .intStackInvalid ∧ x.pc = e.pc ∧ x.psl = e.psl) ∧
  (∀ (pa : Nat) (pc psl : Word) (s : State), s.cfg.mchkLongs = 0 →
    Takes ⟨4, [0], pc, psl, none, none⟩ { s with ipr := { s.ipr with sbita := BitVec.ofNat 32 (pa / 4) } }
      (initiateMachineCheck pa pc psl s)) ∧
  (∀ (pc psl : Word) (s : State), s.cfg.mchkLongs = 0 →
    Takes ⟨4, [0], pc, psl, none, none⟩ s (initiateReadError pc psl s)) ∧
  (∀ (src dst : Spec) (s t : State), readOp 32 src true s.opened = .error .readData t →
    exec (.movl src dst) s = initiateReadError s.pc s.psl (t.undone s))

/-! ### State (10_state.md, 20_memory.md, 70_reset_and_hazards.md) -/

/-- 70_reset_and_hazards.md R1260 to R1263: what reset leaves of the state the spec gives a value, and the UNIBUS INIT and MASSBUS
INIT of power-up. That the configuration has one
UNIBUS adapter, one MASSBUS adapter and one memory controller (log 4, DESIGN CHOICE), and that the power status of the controller
is 1 (log 20, DESIGN CHOICE: R873 does not say which of its two bits tells of power-up), is the model's choice. -/
def Obligations.ResetValues : Prop :=
  let s := State.reset
  s.psl = 0x041F0000 ∧ s.ipr.astlvl = 4 ∧ s.ipr.sisr = 0 ∧ s.ipr.mapen = false ∧ s.ipr.pme = false ∧
  s.ipr.rxDone = false ∧ s.ipr.rxIe = false ∧ s.ipr.txRdy = true ∧ s.ipr.txIe = false ∧ s.ipr.iccs.run = false ∧
  s.ipr.iccs.ie = false ∧ s.run.halted = true ∧ s.sp = s.spb[4] ∧
  (s.bus.ubas.map fun u => (u.adPup, u.ubic, u.uacr)) = [(true, true, 4)] ∧
  (s.bus.mbas.map fun m => (m.pu, m.ie)) = [(true, true)] ∧ s.bus.memctls.map (·.power) = [1] ∧
  .unibusInit 0 ∈ s.outputs ∧ .massbusInit 0 ∈ s.outputs

/-- 20_memory.md R140: at reset main memory is in canonical form, and PSL and processor registers hold values they take. -/
def Obligations.ResetInvariant : Prop :=
  Memory.wf State.reset.mem = true ∧ PslLegal State.reset.psl ∧ IprLegal State.reset.ipr

/-- 20_memory.md R140, R150; 10_state.md R61 to R72: whatever agent moves, a step keeps main memory in canonical form, the
configuration as it is, and the processor registers at values they take. -/
def Obligations.StepKeepsState : Prop := ∀ s t : State, Memory.wf s.mem = true → IprLegal s.ipr → step s = .next t →
  Memory.wf t.mem = true ∧ IprLegal t.ipr ∧ t.cfg = s.cfg

/-- 10_state.md R52, 60_exceptions.md R1195, 42_control.md R500: a step of the CPU, its turn by the agenda or by an empty one, leaves a legal PSL legal: no instruction
and no event gives kernel mode's interrupt stack or an elevated IPL to another mode. -/
def Obligations.StepKeepsPsl : Prop := ∀ s t : State, (s.agenda = [] ∨ ∃ rest, s.agenda = .cpu :: rest) → PslLegal s.psl →
  step s = .next t → PslLegal t.psl

/-- 40_privileged.md R333: an instruction that begins and ends in a mode other than kernel changes neither the memory map
registers, nor SCBB, PCBB and ASTLVL, nor IPL, IS and the interrupt stack pointer. -/
def Obligations.UserConfined : Prop := ∀ (i : Instr) (s t : State), PslLegal s.psl → s.cur ≠ 0 → exec i s = .next t →
  t.cur ≠ 0 → t.run.halted = false → s.run.halted = false →
    t.ipr.mapen = s.ipr.mapen ∧ t.ipr.sbr = s.ipr.sbr ∧ t.ipr.slr = s.ipr.slr ∧ t.ipr.p0br = s.ipr.p0br ∧
    t.ipr.p0lr = s.ipr.p0lr ∧ t.ipr.p1br = s.ipr.p1br ∧ t.ipr.p1lr = s.ipr.p1lr ∧ t.ipr.scbb = s.ipr.scbb ∧
    t.ipr.pcbb = s.ipr.pcbb ∧ t.ipl = s.ipl ∧ t.onIntStack = false ∧ t.spb[4] = s.spb[4] ∧ t.ipr.astlvl = s.ipr.astlvl

/-- 20_memory.md R170 to R187: translation with an empty buffer, tables not changed since it was emptied, and a main memory without
errors: off; the length check; the system and the process regions, with their faults and fault parameters; the modify bit, in a process PTE as in a system PTE (and in the system PTE of its page
table page or not: a free bit), and no other byte of memory. A process PTE outside the system region is the length violation of
decision D16; that the sums are taken modulo 2 to the 30 is an inference, and that a fault saves the reference's own address, of all in
its page, is the model's choice (R187; log 56). -/
def Obligations.Translates : Prop := ∀ (io : Bool) (s : State) (va : Word) (write : Bool) (mode : Mode),
  (s.ipr.mapen = false → translate io va write mode s = .ok (va.toNat % 2 ^ 30) s) ∧
  (s.ipr.mapen = true → outsideRegion s.ipr va = true →
    translate io va write mode s = .error (.fault 0x20 [va, 1 + writeBit write]) s) ∧
  (s.ipr.mapen = true → outsideRegion s.ipr va = false → s.tb = [] → s.mapLog = [] → s.errs.memory = [] →
    (∀ pte, va.toNat / 2 ^ 30 = 2 → s.memLong (systemPteAt s.ipr va) = some pte → pteCode pte ≠ 1 →
      MeetsPte io s va write mode pte (systemPteAt s.ipr va) none) ∧
    (va.toNat / 2 ^ 30 < 2 →
      let pva := processPteVa s.ipr va
      (outsideTable s.ipr va = true → translate io va write mode s = .error (.fault 0x20 [va, 3 + writeBit write]) s) ∧
      (∀ spte, outsideTable s.ipr va = false → s.memLong (systemPteAt s.ipr pva) = some spte → pteCode spte ≠ 1 →
        (pteCode spte = 0 → translate io va write mode s = .error (.fault 0x20 [va, 2 + writeBit write]) s) ∧
        (pteCode spte ≠ 0 → spte.getLsbD 31 = false →
          translate io va write mode s = .error (.fault 0x24 [va, 2 + writeBit write]) s) ∧
        (∀ pte at_, TableReadable spte → at_ = spte.toNat % 2 ^ 21 * 512 + pva.toNat % 512 → s.memLong at_ = some pte →
          pteCode pte ≠ 1 → MeetsPte io s va write mode pte at_ (some (systemPteAt s.ipr pva))))))

/-- 10_state.md R56 (its access column: R57, R72 to R96), R71, R82, R83, R97, 40_privileged.md R330, R331: a register number
outside the table, a read-only one written and a write-only one read are reserved operand faults; a software interrupt
request; the translation buffer and one page of it invalidated. -/
def Obligations.RegisterChecks : Prop := ∀ (s : State) (v : Word),
  (∀ n, n ∉ [0, 1, 2, 3, 4, 8, 9, 10, 11, 12, 13, 16, 17, 18, 19, 21, 24, 26, 27, 32, 33, 34, 40, 41, 44, 45, 48, 49, 50,
      51, 52, 53, 56, 60, 61, 62] → readIpr n s = .error (.fault 0x18 []) s) ∧
  (∀ n, n ∉ [0, 1, 2, 3, 4, 8, 9, 10, 11, 12, 13, 16, 17, 18, 19, 20, 21, 24, 25, 27, 32, 34, 35, 40, 41, 44, 45, 48, 50,
      51, 52, 54, 56, 57, 58, 60, 61] → writeIpr n v s = .error (.fault 0x18 []) s) ∧
  (v.toNat % 16 = 0 → writeIpr 20 v s = .ok () s) ∧
  (v.toNat % 16 ≠ 0 → ∃ r, writeIpr 20 v s = .ok () { s with ipr := { s.ipr with sisr := r } } ∧
    ∀ i, i < 16 → r.getLsbD i = (s.ipr.sisr.getLsbD i || decide (i = v.toNat % 16))) ∧
  (writeIpr 57 v s = .ok () { s with tb := [], mapLog := [] }) ∧
  (∃ tb log, writeIpr 58 v s = .ok () { s with tb := tb, mapLog := log } ∧
    (∀ e, e ∈ tb ↔ e ∈ s.tb ∧ e.vpn.toNat ≠ v.toNat / 512) ∧
    ∀ va : Word, va.toNat / 512 = v.toNat / 512 → oldPtes va { s with tb := tb, mapLog := log } log = [])

/-- 10_state.md R60 to R97, 40_privileged.md R330, R331: a processor register reads as it was written, in the bits it has; the
values P0BR and ASTLVL do not take; the side effects of the console's data registers. The places of CTR and PIN in WCSA,
number 44, are the model's (PRESUMED, log 18), and so is that bits 31:13 of MBRK, number 60, read as 0 (log 33, DESIGN CHOICE). -/
def Obligations.ProcessorRegisters : Prop := ∀ (s : State) (v : Word),
  (∀ n m t, (n, m) ∈ [(0, 0xFFFFFFFF), (1, 0xFFFFFFFF), (2, 0xFFFFFFFF), (3, 0xFFFFFFFF), (4, 0xFFFFFFFF),
      (8, 0xFFFFFFFF), (9, 0x3FFFFF), (10, 0xFFFFFFFF), (11, 0x3FFFFF), (12, 0x3FFFFFFC), (13, 0x3FFFFF),
      (16, 0x3FFFFFFC), (17, 0x3FFFFE00), (18, 0x1F), (19, 7), (21, 0xFFFE), (44, 0xFFFF), (48, 0xFFFFFFFF),
      (50, 0xFFFFFFFF), (51, 0xFFFFFFFF), (52, 0xFFFFFFFF), (56, 1), (60, 0x1FFF), ((61 : Nat), (1 : Word))] →
    writeIpr n v s = .ok () t → readIpr n t = .ok (v &&& m) t) ∧
  (s.cfg.todrPresent = true → ∀ t, writeIpr 27 v s = .ok () t → readIpr 27 t = .ok v t) ∧
  (v.toNat / 2 ^ 30 ≠ 2 ∨ v.toNat % 4 ≠ 0 → writeIpr 8 v s = .error (.fault 0x18 []) s) ∧
  (5 ≤ v.toNat % 8 → writeIpr 19 v s = .error (.fault 0x18 []) s) ∧
  (∃ t, writeIpr 35 v s = .ok () t ∧ t.ipr.txdb = v ∧ t.ipr.txRdy = false) ∧
  (∃ t, readIpr 33 s = .ok s.ipr.rxdb t ∧ t.ipr.rxDone = false) ∧
  (∃ r, readIpr 62 s = .ok r s ∧ r.toNat / 2 ^ 24 = 1 ∧ r.toNat % 2 ^ 24 = s.cfg.sid.toNat % 2 ^ 24)

/-! ### Devices (61_cpu_devices.md to 66_mba.md) -/

/-- 61_cpu_devices.md R1080, R1085, R1090, R1091, 62_console.md R743: a tick of the interval clock and of the time-of-year
clock, a character delivered and a character taken. -/
def Obligations.ClocksAndTerminal : Prop := ∀ (s : State) (rest : List Turn),
  let u : State := { s with agenda := rest }
  (s.agenda = .intervalTick :: rest → s.ipr.iccs.run = true → s.ipr.icr ≠ 0xFFFFFFFF →
    step s = .next { u with ipr := { s.ipr with icr := s.ipr.icr + 1 } }) ∧
  (s.agenda = .intervalTick :: rest → s.ipr.iccs.run = true → s.ipr.icr = 0xFFFFFFFF →
    step s = .next { u with ipr := { s.ipr with
      icr := s.ipr.nicr
      iccs := { s.ipr.iccs with err := s.ipr.iccs.err || s.ipr.iccs.int, int := true }
      timerReq := s.ipr.timerReq || (s.ipr.iccs.ie && !s.ipr.iccs.int) } }) ∧
  (s.agenda = .todrTick :: rest → s.cfg.todrPresent = true →
    step s = .next { u with ipr := { s.ipr with todr := s.ipr.todr + 1 } }) ∧
  (∀ (unit : BitVec 4) (c : Byte), s.agenda = .deliver unit c :: rest → s.run.halted = false →
    s.console.programIo = true → s.ipr.rxDone = false →
      step s = .next { u with ipr := { s.ipr with
        rxdb := (0 : BitVec 20) ++ unit ++ c
        rxDone := true
        rxReq := s.ipr.rxReq || s.ipr.rxIe } }) ∧
  (s.agenda = .accept :: rest → s.run.halted = false → s.console.programIo = true → s.ipr.txRdy = false →
    step s = .next { u with
      ipr := { s.ipr with txRdy := true, txReq := s.ipr.txReq || s.ipr.txIe }
      outputs := .transmitted (s.ipr.txdb.extractLsb' 0 12) :: s.outputs })

/-- 62_console.md R748, R749, R751, 70_reset_and_hazards.md R1275: with the processor halted, its clock not stopped (R752), and the
console in command mode, bytes are loaded into a memory without errors and examined, and START begins at its address from the initialized state. -/
def Obligations.ConsoleBoots : Prop := ∀ (s : State) (rest : List Turn),
  s.console.programIo = false → s.run.halted = true → s.console.clockStopped = false →
  let u : State := { s with agenda := rest }
  (∀ (a : Word) (bs : List Byte), s.agenda = .console (.load a bs) :: rest → Memory.wf s.mem = true → s.errs.memory = [] →
    (∀ i, i < bs.length → (s.memByte (a.toNat % 2 ^ 30 + i)).isSome = true) →
    ∃ t, step s = .next t ∧ t.regs = s.regs ∧ t.psl = s.psl ∧ t.ipr = s.ipr ∧
      (∀ i (h : i < bs.length), t.memByte (a.toNat % 2 ^ 30 + i) = some bs[i]) ∧
      ∀ pa, (∀ i, i < bs.length → a.toNat % 2 ^ 30 + i ≠ pa) → t.memByte pa = s.memByte pa) ∧
  (∀ (a : Word) (w : Word), s.agenda = .console (.examine (some .physical) (some .long) (.at a)) :: rest →
    s.console.relocation = 0 → s.errs.memory = [] → a.toNat % 2 ^ 30 + 3 < ioBase → s.memLong (a.toNat % 2 ^ 30) = some w →
    step s = .next { u with
      console := { s.console with lastSpace := .physical, lastLength := .long, lastAddr := a, lastData := w.setWidth 64 }
      outputs := .examined (w.setWidth 64) :: s.outputs }) ∧
  (∀ a : Word, s.agenda = .console (.start a) :: rest → s.console.stepMode = .none → s.cfg.versions ≠ .fatal →
    ∃ t, step s = .next t ∧ t.pc = a ∧ t.psl = 0x041F0000 ∧ t.ipr.mapen = false ∧ t.run.halted = false ∧ t.mem = s.mem ∧
      t.agenda = rest)

/-- 66_mba.md R1002, R1010 to R1014, R1017, R1031, R1032, R1041: the registers of a MASSBUS adapter, its transfers and its interrupt
request. That turns of the agenda make each of their moves (logs 6 and 15), that the two counts of a transfer end each by itself, and
that an invalid map register is found whatever the silo holds (log 28), is the model's choice. 65_uba.md R930, R931, R942: a device's read, and write, while nobody holds the UNIBUS, through the direct data path of a UNIBUS
adapter at an address with a valid map register and no error in memory; an invalid one is nonexistent memory to the device, recorded as IVMR. -/
def Obligations.AdapterTransfers : Prop := MassbusRegisters ∧ MassbusTransfers ∧ ∀ (s : State) (rest : List Turn) (n : Nat) (x : UbaState) (ua : BitVec 18),
  s.bus.ubas[n]? = some x → s.errs.memory = [] → x.phase = .ready → x.sbiHolds = false → x.ddpLock = false → x.hold = none → x.late = false → ua.toNat % 2 = 0 →
  ua.toNat / 512 < 496 → x.uacr.toNat / 2 ^ 26 % 32 = 0 →
  let mr := sparseRead x.map (ua.toNat / 512)
  let pa := mr.toNat % 2 ^ 21 * 512 + ua.toNat % 512
  (mr.getLsbD 31 = true → mr.toNat / 2 ^ 21 % 16 = 0 → pa + 1 < ioBase →
    (∀ lo hi, s.agenda = .unibus n (.dati ua) :: rest → s.memByte pa = some lo → s.memByte (pa + 1) = some hi →
      ∃ t, step s = .next t ∧ t.mem = s.mem ∧ t.bus = s.bus ∧ t.outputs = .dmaData n (hi ++ lo) :: s.outputs) ∧
    (∀ v : BitVec 16, s.agenda = .unibus n (.dato ua v) :: rest → Memory.wf s.mem = true →
      (s.memByte pa).isSome = true → (s.memByte (pa + 1)).isSome = true →
      ∃ t, step s = .next t ∧ t.memByte pa = some (v.extractLsb' 0 8) ∧ t.memByte (pa + 1) = some (v.extractLsb' 8 8) ∧
        (∀ a, a ≠ pa → a ≠ pa + 1 → t.memByte a = s.memByte a) ∧ t.outputs = .dmaDone n :: s.outputs)) ∧
  (mr.getLsbD 31 = false → s.agenda = .unibus n (.dati ua) :: rest → x.uasr = 0 →
    ∃ t y, step s = .next t ∧ t.mem = s.mem ∧ t.outputs = .dmaNxm n :: s.outputs ∧ t.bus.ubas[n]? = some y ∧
      y.uasr = 0x10 ∧ y.fmer.toNat = ua.toNat / 512)
end

