-- ==== Sys2Proof/Laws/Memory.lean ====
section
/-! SUPPORT. The laws of main memory: read after write, the canonical form, and the storage cells of the controllers
(20_memory.md R140, R166; 64_memory_controller.md R885). -/
namespace Sys2Proof.Machine
open Sys2Proof

/-! ### Sparse arrays of longwords -/

theorem sparseRead_sparseInsert (l : List (Nat × Word)) (a i : Nat) (v : Word) :
    sparseRead (sparseInsert a v l) i = if i = a then v else sparseRead l i := by
  induction l with
  | nil => simp [sparseInsert, sparseRead]
  | cons c t ih =>
    obtain ⟨b, w⟩ := c
    unfold sparseInsert
    split
    · simp [sparseRead]
    · split
      · next h => subst h; by_cases hi : i = a <;> simp [sparseRead, hi]
      · next h =>
        rw [sparseRead, ih, sparseRead]
        by_cases hb : i = b
        · subst hb; simp [Ne.symm h]
        · simp [hb]

theorem sparseRead_filter (l : List (Nat × Word)) (a i : Nat) :
    sparseRead (l.filter (·.1 != a)) i = if i = a then 0 else sparseRead l i := by
  induction l with
  | nil => simp [sparseRead]
  | cons c t ih =>
    obtain ⟨b, w⟩ := c
    by_cases hb : b = a
    · subst hb
      by_cases hi : i = b
      · subst hi; simpa using ih
      · simp [sparseRead, ih, hi]
    · by_cases hi : i = b
      · subst hi; simp [sparseRead, hb]
      · simp [sparseRead, hb, ih, hi]

/-- Every register of a map reads as before, but for the one written, which reads as it was written. -/
theorem sparseRead_sparseWrite (l : List (Nat × Word)) (a i : Nat) (v : Word) :
    sparseRead (sparseWrite l a v) i = if i = a then v else sparseRead l i := by
  unfold sparseWrite
  split
  · next h => rw [sparseRead_filter, h]
  · exact sparseRead_sparseInsert l a i v

/-! ### Cells -/

/-- Every address of the list lies above a. -/
def cellsAbove (a : Nat) : List Host.Cell → Bool
  | [] => true
  | (b, _) :: _ => decide (a < b)

theorem Memory.wf_cons (c : Host.Cell) (t : List Host.Cell) :
    Memory.wf (c :: t) = true ↔ c.2 ≠ unwrittenByte ∧ cellsAbove c.1 t = true ∧ Memory.wf t = true := by
  cases t with
  | nil => simp [Memory.wf, cellsAbove]
  | cons d t => simp [Memory.wf, cellsAbove, and_assoc]

theorem memRead_of_above {a : Nat} {t : List Host.Cell} (h : cellsAbove a t = true) : memRead t a = unwrittenByte := by
  cases t with
  | nil => rfl
  | cons c t =>
    obtain ⟨b, w⟩ := c
    have hb : a < b := by simpa [cellsAbove] using h
    simp [memRead, hb, Nat.ne_of_lt hb]

/-- Reading the cell just written gives the byte written. -/
theorem memRead_memWrite_same {m : List Host.Cell} (h : Memory.wf m = true) (a : Nat) (v : Byte) :
    memRead (memWrite m a v) a = v := by
  induction m with
  | nil => by_cases hv : v = unwrittenByte <;> simp [memWrite, memRead, hv]
  | cons c t ih =>
    obtain ⟨b, w⟩ := c
    obtain ⟨-, habove, ht⟩ := (Memory.wf_cons _ _).1 h
    unfold memWrite
    split
    · next hab => split <;> simp_all [memRead, Nat.ne_of_lt hab]
    · split
      · next _ hab =>
        subst hab
        split
        · next hv => rw [memRead_of_above habove, hv]
        · simp [memRead]
      · next h1 h2 => simp [memRead, h1, h2, ih ht]

/-- Writing a cell leaves every other cell as it was. -/
theorem memRead_memWrite_ne {m : List Host.Cell} (h : Memory.wf m = true) {a b : Nat} (hab : b ≠ a) (v : Byte) :
    memRead (memWrite m a v) b = memRead m b := by
  induction m with
  | nil =>
    unfold memWrite
    split
    · rfl
    · by_cases hlt : b < a <;> simp [memRead, hab]
  | cons c t ih =>
    obtain ⟨d, w⟩ := c
    obtain ⟨-, habove, ht⟩ := (Memory.wf_cons _ _).1 h
    unfold memWrite
    split
    · next had =>
      split
      · rfl
      · by_cases hlt : b < a
        · have : b < d := Nat.lt_trans hlt had
          simp [memRead, hab, hlt, this, Nat.ne_of_lt this]
        · simp [memRead, hab, hlt]
    · split
      · next _ had =>
        subst had
        have key : memRead t b = memRead ((a, w) :: t) b := by
          by_cases hlt : b < a
          · have hb : cellsAbove b t = true := by
              cases t with
              | nil => rfl
              | cons e t =>
                simp only [cellsAbove, decide_eq_true_eq] at habove ⊢
                exact Nat.lt_trans hlt habove
            rw [memRead_of_above hb]
            simp [memRead, hab, hlt]
          · simp [memRead, hab, hlt]
        split
        · exact key
        · rw [← key]
          by_cases hlt : b < a
          · have hb : cellsAbove b t = true := by
              cases t with
              | nil => rfl
              | cons e t =>
                simp only [cellsAbove, decide_eq_true_eq] at habove ⊢
                exact Nat.lt_trans hlt habove
            rw [memRead_of_above hb]
            simp [memRead, hab, hlt]
          · simp [memRead, hab, hlt]
      · next h1 h2 =>
        simp only [memRead]
        split
        · rfl
        · split
          · rfl
          · exact ih ht

theorem cellsAbove_memWrite {m : List Host.Cell} {a c : Nat} (h : cellsAbove c m = true) (hc : c < a)
    (ht : Memory.wf m = true) (v : Byte) : cellsAbove c (memWrite m a v) = true := by
  cases m with
  | nil => unfold memWrite; split <;> simp [cellsAbove, hc]
  | cons d t =>
    obtain ⟨b, w⟩ := d
    have hb : c < b := by simpa [cellsAbove] using h
    unfold memWrite
    split
    · split <;> simp [cellsAbove, hc, hb]
    · split
      · split
        · obtain ⟨-, habove, -⟩ := (Memory.wf_cons _ _).1 ht
          cases t with
          | nil => rfl
          | cons e t =>
            simp only [cellsAbove, decide_eq_true_eq] at habove ⊢
            exact Nat.lt_trans hb habove
        · simp [cellsAbove, hc]
      · simp [cellsAbove, hb]

/-- A write keeps the canonical form. -/
theorem memWrite_wf {m : List Host.Cell} (h : Memory.wf m = true) (a : Nat) (v : Byte) :
    Memory.wf (memWrite m a v) = true := by
  induction m with
  | nil =>
    unfold memWrite
    split
    · rfl
    · next hv => simp [Memory.wf, hv]
  | cons c t ih =>
    obtain ⟨b, w⟩ := c
    have h0 := h
    obtain ⟨hw, habove, ht⟩ := (Memory.wf_cons _ _).1 h
    unfold memWrite
    split
    · next hab =>
      split
      · exact h0
      · next hv => exact (Memory.wf_cons _ _).2 ⟨hv, by simpa [cellsAbove] using hab, h0⟩
    · split
      · next _ hab =>
        subst hab
        split
        · exact ht
        · next hv => exact (Memory.wf_cons _ _).2 ⟨hv, habove, ht⟩
      · next h1 h2 =>
        exact (Memory.wf_cons _ _).2 ⟨hw, cellsAbove_memWrite habove (by omega) ht v, ih ht⟩

/-- Memory in canonical form is determined by what its cells read as. -/
theorem memory_ext {m n : List Host.Cell} (hm : Memory.wf m = true) (hn : Memory.wf n = true)
    (h : ∀ a, memRead m a = memRead n a) : m = n := by
  induction m generalizing n with
  | nil =>
    cases n with
    | nil => rfl
    | cons c t =>
      obtain ⟨hw, -, -⟩ := (Memory.wf_cons _ _).1 hn
      have := h c.1
      simp [memRead] at this
      exact absurd this.symm hw
  | cons c t ih =>
    obtain ⟨a, v⟩ := c
    obtain ⟨hv, ha, ht⟩ := (Memory.wf_cons _ _).1 hm
    cases n with
    | nil =>
      have := h a
      simp [memRead] at this
      exact absurd this hv
    | cons d u =>
      obtain ⟨b, w⟩ := d
      obtain ⟨hw, hb, hu⟩ := (Memory.wf_cons _ _).1 hn
      have h1 := h a
      have h2 := h b
      simp only [memRead, if_pos] at h1 h2
      have hab : a = b := by
        rcases Nat.lt_trichotomy a b with hlt | heq | hgt
        · rw [if_neg (Nat.ne_of_lt hlt), if_pos hlt] at h1
          exact absurd h1 hv
        · exact heq
        · rw [if_neg (Nat.ne_of_lt hgt), if_pos hgt] at h2
          exact absurd h2.symm hw
      subst hab
      rw [if_pos rfl] at h1
      subst h1
      congr 1
      refine ih ht hu fun x => ?_
      have hx := h x
      simp only [memRead] at hx
      by_cases hxa : x = a
      · subst hxa
        rw [memRead_of_above ha, memRead_of_above hb]
      · rw [if_neg hxa, if_neg hxa] at hx
        by_cases hlt : x < a
        · have up : ∀ {l : List Host.Cell}, cellsAbove a l = true → memRead l x = unwrittenByte := by
            intro l hl
            apply memRead_of_above
            cases l with
            | nil => rfl
            | cons e l =>
              simp only [cellsAbove, decide_eq_true_eq] at hl ⊢
              exact Nat.lt_trans hlt hl
          rw [up ha, up hb]
        · rw [if_neg hlt, if_neg hlt] at hx
          exact hx

/-! ### Physical addresses and storage cells -/

/-- Once: the cell of a physical address in a controller, interleaved or not. -/
theorem Bank.cell_spec {all : List Bank} {b : Bank} {pa c : Nat} (h : b.cell all pa = some c) :
    b.start ≤ pa ∧
      ((all.any b.pairedWith = true ∧ pa < b.start + 2 * b.size ∧ pa / 8 % 2 = b.cfg.tr % 2 ∧
          c = b.base + (pa - b.start) / 16 * 8 + pa % 8) ∨
        (all.any b.pairedWith = false ∧ pa < b.start + b.size ∧ c = b.base + (pa - b.start))) := by
  unfold Bank.cell at h
  cases hp : all.any b.pairedWith <;> simp only [hp, Bool.false_eq_true, if_true, if_false] at h
  · obtain ⟨hc, hv⟩ := Option.ite_none_right_eq_some.1 h
    injection hv with hv
    exact ⟨hc.1, .inr ⟨rfl, hc.2, hv.symm⟩⟩
  · obtain ⟨hc, hv⟩ := Option.ite_none_right_eq_some.1 h
    injection hv with hv
    exact ⟨hc.1, .inl ⟨rfl, hc.2.1, hc.2.2, hv.symm⟩⟩

theorem Bank.size_eq (b : Bank) : b.size = b.cfg.units * 65536 := rfl

theorem Bank.start_eq (b : Bank) : b.start = b.ctl.start.toNat * 65536 := rfl

/-- The cells of a controller lie in its range. -/
theorem Bank.cell_range {all : List Bank} {b : Bank} {pa c : Nat} (h : b.cell all pa = some c) :
    b.base ≤ c ∧ c < b.base + b.size := by
  obtain ⟨h1, ⟨-, h2, -, h3⟩ | ⟨-, h2, h3⟩⟩ := Bank.cell_spec h
  · have := b.size_eq
    omega
  · omega

/-- A controller keeps different addresses in different cells. -/
theorem Bank.cell_inj {all : List Bank} {b : Bank} {pa pb c : Nat} (ha : b.cell all pa = some c)
    (hb : b.cell all pb = some c) : pa = pb := by
  have hs := b.start_eq
  obtain ⟨a1, ⟨a0, a2, a4, a3⟩ | ⟨a0, a2, a3⟩⟩ := Bank.cell_spec ha
  · obtain ⟨b1, ⟨-, b2, b4, b3⟩ | ⟨b0, -, -⟩⟩ := Bank.cell_spec hb
    · omega
    · rw [a0] at b0
      cases b0
  · obtain ⟨b1, ⟨b0, -, -, -⟩ | ⟨-, b2, b3⟩⟩ := Bank.cell_spec hb
    · rw [a0] at b0
      cases b0
    · omega

theorem findSome_cell_ge {all : List Bank} {pa c : Nat} : ∀ {n : Nat} {cs : List Config.MemCtl} {ms : List MemCtlState},
    (banksFrom n cs ms).findSome? (fun b => b.cell all pa) = some c → n ≤ c := by
  intro n cs
  induction cs generalizing n with
  | nil => intro ms h; simp [banksFrom] at h
  | cons d cs ih =>
    intro ms h
    cases ms with
    | nil => simp [banksFrom] at h
    | cons m ms =>
      simp only [banksFrom, List.findSome?_cons] at h
      split at h
      · next hc =>
        have := (Bank.cell_range hc).1
        injection h with h
        subst h
        exact this
      · have := ih h
        omega

theorem findSome_cell_inj {all : List Bank} {pa pb c : Nat} : ∀ {n : Nat} {cs : List Config.MemCtl}
    {ms : List MemCtlState}, (banksFrom n cs ms).findSome? (fun b => b.cell all pa) = some c →
    (banksFrom n cs ms).findSome? (fun b => b.cell all pb) = some c → pa = pb := by
  intro n cs
  induction cs generalizing n with
  | nil => intro ms h; simp [banksFrom] at h
  | cons d cs ih =>
    intro ms h g
    cases ms with
    | nil => simp [banksFrom] at h
    | cons m ms =>
      simp only [banksFrom, List.findSome?_cons] at h g
      split at h
      · next hc =>
        have ha := Bank.cell_range hc
        injection h with h
        subst h
        split at g
        · next hd =>
          injection g with g
          subst g
          exact Bank.cell_inj hc hd
        · have := findSome_cell_ge g
          simp only [Bank.size] at ha
          omega
      · split at g
        · next hd =>
          have hb := Bank.cell_range hd
          injection g with g
          subst g
          have := findSome_cell_ge h
          simp only [Bank.size] at hb
          omega
        · exact ih h g

/-- Different physical addresses have different storage cells. -/
theorem State.cell_inj {s : State} {pa pb c : Nat} (ha : s.cell pa = some c) (hb : s.cell pb = some c) : pa = pb := by
  simp only [State.cell] at ha hb
  split at ha
  · split at hb
    · exact findSome_cell_inj ha hb
    · cases hb
  · cases ha

/-- No storage cell stands in I/O space. -/
theorem State.cell_lt {s : State} {pa c : Nat} (h : s.cell pa = some c) : pa < ioBase := by
  simp only [State.cell] at h
  split at h
  · assumption
  · cases h

/-- Which cell an address names depends on the controllers alone. -/
theorem State.cell_congr {s t : State} (hc : t.cfg = s.cfg) (hm : t.bus.memctls = s.bus.memctls) (pa : Nat) :
    t.cell pa = s.cell pa := by
  simp only [State.cell, State.banks, hc, hm]

/-- What a byte reads as depends on the controllers and the cells. -/
theorem State.memByte_congr {s t : State} (hc : t.cfg = s.cfg) (hb : t.bus.memctls = s.bus.memctls)
    (hm : t.mem = s.mem) (pa : Nat) : t.memByte pa = s.memByte pa := by
  simp only [State.memByte, State.cell_congr hc hb, hm]

/-! ### Errors of the array -/

/-- A memory that holds no error holds none in any quadword. -/
theorem State.errorAt_nil {s : State} (h : s.errs.memory = []) (c : Nat) : s.errorAt c = none := by
  rw [State.errorAt, h]
  rfl

/-- Where the quadword is good, a read changes nothing. -/
theorem State.readCell_good {s : State} {c : Nat} (h : s.errorAt c = none) : s.readCell c = (.good, s) := by
  simp [State.readCell, h]

/-- Once: what a read of a cell can change: errors corrected and logged, free values drawn. -/
theorem State.readCell_spec (s : State) (c : Nat) :
    ∃ n ms r, (s.readCell c).2 = { s with free := n, errs := { s.errs with memory := ms, regC := r } } ∧
      ms ⊆ s.errs.memory := by
  have keep : ∀ d : Bool, ∃ ms, (if d = true then s else s.dropError c) = { s with errs := { s.errs with memory := ms } } ∧
      ms ⊆ s.errs.memory := by
    intro d
    cases d
    · exact ⟨_, rfl, fun e he => (List.mem_filter.1 he).1⟩
    · exact ⟨_, rfl, fun e he => he⟩
  unfold State.readCell
  split
  · exact ⟨_, _, _, rfl, fun e he => he⟩
  · next e _ =>
    obtain ⟨ms, h1, h2⟩ := keep e.double
    dsimp only
    rw [h1]
    split
    · exact ⟨_, _, _, rfl, h2⟩
    · exact ⟨_, _, _, rfl, h2⟩

/-- Once: what a byte overwritten can change: memory, which keeps its form, and errors, none of which arises. -/
theorem State.overwrite_spec (s : State) (agent : Bool) (pa c : Nat) (v : Byte) :
    ∃ m l ms, s.overwrite agent pa c v = { s with mem := m, stale := l, errs := { s.errs with memory := ms } } ∧
      ms ⊆ s.errs.memory ∧ (Memory.wf s.mem = true → Memory.wf m = true) := by
  unfold State.overwrite
  split
  · exact ⟨_, _, _, rfl, fun e he => he, fun h => memWrite_wf h _ _⟩
  · split
    · exact ⟨_, _, _, rfl, fun e he => he, id⟩
    · exact ⟨_, _, _, rfl, fun e he => (List.mem_filter.1 he).1, fun h => memWrite_wf h _ _⟩

/-- In a memory without errors a byte overwritten is stored. -/
theorem State.overwrite_good {s : State} (h : s.errs.memory = []) (agent : Bool) (pa c : Nat) (v : Byte) :
    s.overwrite agent pa c v = s.putByte agent pa c v := by
  rw [State.overwrite, State.errorAt_nil h]

/-! ### A byte stored by the CPU -/

/-- Once: what a CPU store of one byte does. -/
theorem cpuStoreByte_spec {pa : Nat} {v : Byte} {s t : State} (h : cpuStoreByte pa v s = .ok () t) :
    ∃ c, s.cell pa = some c ∧ t = s.overwrite false pa c v := by
  unfold cpuStoreByte at h
  split at h
  · cases h
  · next c hc =>
    injection h with _ h
    exact ⟨c, hc, h.symm⟩

/-- A byte stored reads back, unless it lies in a quadword with a double-bit error; every other byte reads as before. -/
theorem cpuStoreByte_bytes {pa : Nat} {v : Byte} {s t : State} (hw : Memory.wf s.mem = true)
    (h : cpuStoreByte pa v s = .ok () t) :
    (t.memByte pa = some v ∨ (s.errs.memory ≠ [] ∧ t.memByte pa = s.memByte pa)) ∧
      ∀ pb, pb ≠ pa → t.memByte pb = s.memByte pb := by
  obtain ⟨c, hc, rfl⟩ := cpuStoreByte_spec h
  have put (u : State) (hu : u.cfg = s.cfg) (hb : u.bus = s.bus) (hm : u.mem = s.mem) (pb : Nat) :
      (u.putByte false pa c v).memByte pb = if pb = pa then some v else s.memByte pb := by
    have e : (u.putByte false pa c v).memByte pb = (s.cell pb).map (memRead (memWrite s.mem c v)) := by
      rw [← hm, ← State.cell_congr (s := s) (t := u.putByte false pa c v) hu (congrArg Bus.memctls hb)]
      rfl
    rw [e, State.memByte]
    by_cases hp : pb = pa
    · subst hp
      simp [hc, memRead_memWrite_same hw]
    · rw [if_neg hp]
      cases hb : s.cell pb with
      | none => rfl
      | some d =>
        have : d ≠ c := fun e => hp (State.cell_inj hb (e ▸ hc))
        simp [memRead_memWrite_ne hw this]
  unfold State.overwrite
  split
  · exact ⟨.inl (by rw [put s rfl rfl rfl, if_pos rfl]), fun pb hp => by rw [put s rfl rfl rfl, if_neg hp]⟩
  · next e he =>
    split
    · refine ⟨.inr ⟨fun n => ?_, rfl⟩, fun _ _ => rfl⟩
      rw [State.errorAt_nil n] at he
      cases he
    · have k := put (s.dropError c) rfl rfl rfl
      exact ⟨.inl (by rw [k, if_pos rfl]), fun pb hp => by rw [k, if_neg hp]⟩

/-- In a memory without errors a byte stored reads back, and every other byte reads as before. -/
theorem cpuStoreByte_memByte {pa : Nat} {v : Byte} {s t : State} (hw : Memory.wf s.mem = true) (he : s.errs.memory = [])
    (h : cpuStoreByte pa v s = .ok () t) (pb : Nat) : t.memByte pb = if pb = pa then some v else s.memByte pb := by
  obtain ⟨h1, h2⟩ := cpuStoreByte_bytes hw h
  split
  · next e => exact e ▸ h1.resolve_right fun k => k.1 he
  · next e => exact h2 pb e

/-- A byte read is the byte of its cell. -/
theorem cpuLoadByte_memByte {pa : Nat} {b : Byte} {s t : State} (h : cpuLoadByte pa s = .ok b t) :
    s.memByte pa = some b := by
  unfold cpuLoadByte at h
  split at h
  · cases h
  · next c hc =>
    rw [State.memByte, hc]
    split at h
    · cases h
    · injection h with e _
      exact congrArg some e
    · injection h with e _
      exact congrArg some e

end Sys2Proof.Machine
end

