-- ==== Sys2Proof/Laws/Monad.lean ====
section
/-! SUPPORT. What a computation of the CPU does, step by step, and the relations between states that every part of one
keeps. -/
namespace Sys2Proof.Machine
open Sys2Proof

/-! ### Running a computation -/

theorem bind_of_ok {α β : Type} {x : M α} {f : α → M β} {s t : State} {a : α} (h : x s = .ok a t) :
    (x >>= f) s = f a t := by
  show EStateM.bind x f s = f a t
  simp only [EStateM.bind, h]

theorem bind_of_error {α β : Type} {x : M α} {f : α → M β} {s t : State} {e : Trap} (h : x s = .error e t) :
    (x >>= f) s = .error e t := by
  show EStateM.bind x f s = _
  simp only [EStateM.bind, h]

/-- A sequence that ends well ran its first part well, then its second. -/
theorem bind_ok {α β : Type} {x : M α} {f : α → M β} {s t : State} {b : β} (h : (x >>= f) s = .ok b t) :
    ∃ a u, x s = .ok a u ∧ f a u = .ok b t := by
  cases hx : x s with
  | ok a u => exact ⟨a, u, rfl, (bind_of_ok hx).symm.trans h⟩
  | error e u =>
    rw [bind_of_error hx] at h
    cases h

@[simp] theorem pure_run {α : Type} (a : α) (s : State) : (pure a : M α) s = .ok a s := rfl
@[simp] theorem get_run (s : State) : (get : M State) s = .ok s s := rfl
@[simp] theorem set_run (t s : State) : (set t : M PUnit) s = .ok () t := rfl
@[simp] theorem modify_run (f : State → State) (s : State) : (modify f : M PUnit) s = .ok () (f s) := rfl
@[simp] theorem raise_run {α : Type} (e : Trap) (s : State) : (raise e : M α) s = .error e s := rfl
@[simp] theorem reservedOperand_run {α : Type} (s : State) :
    (reservedOperand : M α) s = .error (.fault 0x18 []) s := rfl
@[simp] theorem reservedAddressing_run {α : Type} (s : State) :
    (reservedAddressing : M α) s = .error (.fault 0x1C []) s := rfl
@[simp] theorem reservedInstruction_run {α : Type} (s : State) :
    (reservedInstruction : M α) s = .error (.fault 0x10 []) s := rfl
@[simp] theorem draw_run (w : Nat) (s : State) :
    draw w s = .ok ((Config.freeValue s.free).setWidth w) { s with free := s.free + 1 } := rfl

theorem map_run {α β : Type} (f : α → β) (x : M α) : f <$> x = x >>= fun a => pure (f a) := rfl

/-! ### Relations kept -/

/-- Every run of m, whether it ends well or not, relates its first state to its last. -/
def Keeps {α : Type} (R : State → State → Prop) (m : M α) : Prop :=
  ∀ s, match m s with
    | .ok _ t => R s t
    | .error _ t => R s t

theorem Keeps.ok {α : Type} {R : State → State → Prop} {m : M α} (h : Keeps R m) {s t : State} {a : α}
    (hr : m s = .ok a t) : R s t := by
  have := h s
  rw [hr] at this
  exact this

theorem Keeps.error {α : Type} {R : State → State → Prop} {m : M α} (h : Keeps R m) {s t : State} {e : Trap}
    (hr : m s = .error e t) : R s t := by
  have := h s
  rw [hr] at this
  exact this

/-- A relation that chains of steps keep. -/
structure Chain (R : State → State → Prop) : Prop where
  refl : ∀ s, R s s
  trans : ∀ {s t u}, R s t → R t u → R s u

variable {α β : Type} {R : State → State → Prop}

theorem Chain.pure (hR : Chain R) (a : α) : Keeps R (pure a : M α) := fun s => hR.refl s
theorem Chain.get (hR : Chain R) : Keeps R (get : M State) := fun s => hR.refl s
theorem Chain.raise (hR : Chain R) (e : Trap) : Keeps R (raise e : M α) := fun s => hR.refl s
theorem Chain.reservedOperand (hR : Chain R) : Keeps R (reservedOperand : M α) := fun s => hR.refl s
theorem Chain.reservedAddressing (hR : Chain R) : Keeps R (reservedAddressing : M α) := fun s => hR.refl s
theorem Chain.reservedInstruction (hR : Chain R) : Keeps R (reservedInstruction : M α) := fun s => hR.refl s

theorem Keeps.modify {f : State → State} (h : ∀ s, R s (f s)) : Keeps R (modify f : M PUnit) := fun s => h s

/-- The state read, then a computation that may use it. -/
theorem Chain.bind (hR : Chain R) {x : M α} {f : α → M β} (hx : Keeps R x) (hf : ∀ a, Keeps R (f a)) :
    Keeps R (x >>= f) := by
  intro s
  cases h : x s with
  | ok a u =>
    rw [bind_of_ok h]
    have h1 := hx.ok h
    cases h2 : f a u with
    | ok b t => exact hR.trans h1 ((hf a).ok h2)
    | error e t => exact hR.trans h1 ((hf a).error h2)
  | error e u =>
    rw [bind_of_error h]
    exact hx.error h

theorem Chain.map (hR : Chain R) {x : M α} (f : α → β) (hx : Keeps R x) : Keeps R (f <$> x) :=
  hR.bind hx fun a => hR.pure (f a)

/-- A computation that starts by reading the state, taken at that state. -/
theorem Keeps.getBind {f : State → M β}
    (h : ∀ s, match f s s with
      | .ok _ t => R s t
      | .error _ t => R s t) : Keeps R (MonadState.get >>= f) := by
  intro s
  rw [bind_of_ok (get_run s)]
  exact h s

theorem Chain.tryCatch (hR : Chain R) {x : M α} {f : Trap → M α} (hx : Keeps R x) (hf : ∀ e, Keeps R (f e)) :
    Keeps R (tryCatch x f) := by
  intro s
  show match EStateM.tryCatch x f s with | .ok _ t => R s t | .error _ t => R s t
  simp only [EStateM.tryCatch]
  cases h : x s with
  | ok a u => exact hx.ok h
  | error e u =>
    have h1 := hx.error h
    show match f e u with | .ok _ t => R s t | .error _ t => R s t
    cases h2 : f e u with
    | ok b t => exact hR.trans h1 ((hf e).ok h2)
    | error e' t => exact hR.trans h1 ((hf e).error h2)

theorem Keeps.ite {c : Prop} [Decidable c] {x y : M α} (hx : c → Keeps R x) (hy : ¬c → Keeps R y) :
    Keeps R (if c then x else y) := by
  by_cases h : c
  · rw [if_pos h]
    exact hx h
  · rw [if_neg h]
    exact hy h

theorem Keeps.dite {c : Prop} [Decidable c] {x : c → M α} {y : ¬c → M α} (hx : ∀ h, Keeps R (x h))
    (hy : ∀ h, Keeps R (y h)) : Keeps R (if h : c then x h else y h) := by
  by_cases h : c
  · rw [dif_pos h]
    exact hx h
  · rw [dif_neg h]
    exact hy h

theorem Keeps.mono {R' : State → State → Prop} {m : M α} (h : Keeps R m) (hr : ∀ s t, R s t → R' s t) : Keeps R' m := by
  intro s
  have := h s
  cases hm : m s with
  | ok a t => rw [hm] at this; exact hr _ _ this
  | error e t => rw [hm] at this; exact hr _ _ this

end Sys2Proof.Machine
end

