-- ==== Sys2Proof/Laws/State.lean ====
section
/-! SUPPORT. One lemma per field of State per update, so that no proof unfolds an update. -/
namespace Sys2Proof.Machine
open Sys2Proof

/-! ### setReg -/

@[simp] theorem State.setReg_cfg (s : State) (n : Reg) (v : Word) : (s.setReg n v).cfg = s.cfg := rfl
@[simp] theorem State.setReg_psl (s : State) (n : Reg) (v : Word) : (s.setReg n v).psl = s.psl := rfl
@[simp] theorem State.setReg_spb (s : State) (n : Reg) (v : Word) : (s.setReg n v).spb = s.spb := rfl
@[simp] theorem State.setReg_ipr (s : State) (n : Reg) (v : Word) : (s.setReg n v).ipr = s.ipr := rfl
@[simp] theorem State.setReg_mem (s : State) (n : Reg) (v : Word) : (s.setReg n v).mem = s.mem := rfl
@[simp] theorem State.setReg_tb (s : State) (n : Reg) (v : Word) : (s.setReg n v).tb = s.tb := rfl
@[simp] theorem State.setReg_mapLog (s : State) (n : Reg) (v : Word) : (s.setReg n v).mapLog = s.mapLog := rfl
@[simp] theorem State.setReg_stale (s : State) (n : Reg) (v : Word) : (s.setReg n v).stale = s.stale := rfl
@[simp] theorem State.setReg_prefetched (s : State) (n : Reg) (v : Word) : (s.setReg n v).prefetched = s.prefetched := rfl
@[simp] theorem State.setReg_run (s : State) (n : Reg) (v : Word) : (s.setReg n v).run = s.run := rfl
@[simp] theorem State.setReg_console (s : State) (n : Reg) (v : Word) : (s.setReg n v).console = s.console := rfl
@[simp] theorem State.setReg_bus (s : State) (n : Reg) (v : Word) : (s.setReg n v).bus = s.bus := rfl
@[simp] theorem State.setReg_outputs (s : State) (n : Reg) (v : Word) : (s.setReg n v).outputs = s.outputs := rfl
@[simp] theorem State.setReg_free (s : State) (n : Reg) (v : Word) : (s.setReg n v).free = s.free := rfl
@[simp] theorem State.setReg_agenda (s : State) (n : Reg) (v : Word) : (s.setReg n v).agenda = s.agenda := rfl
@[simp] theorem State.setReg_errs (s : State) (n : Reg) (v : Word) : (s.setReg n v).errs = s.errs := rfl

/-! ### sync -/

@[simp] theorem State.sync_cfg (s : State) : s.sync.cfg = s.cfg := rfl
@[simp] theorem State.sync_regs (s : State) : s.sync.regs = s.regs := rfl
@[simp] theorem State.sync_psl (s : State) : s.sync.psl = s.psl := rfl
@[simp] theorem State.sync_spb (s : State) : s.sync.spb = s.spb := rfl
@[simp] theorem State.sync_ipr (s : State) : s.sync.ipr = s.ipr := rfl
@[simp] theorem State.sync_mem (s : State) : s.sync.mem = s.mem := rfl
@[simp] theorem State.sync_tb (s : State) : s.sync.tb = s.tb := rfl
@[simp] theorem State.sync_mapLog (s : State) : s.sync.mapLog = s.mapLog := rfl
@[simp] theorem State.sync_run (s : State) : s.sync.run = s.run := rfl
@[simp] theorem State.sync_console (s : State) : s.sync.console = s.console := rfl
@[simp] theorem State.sync_bus (s : State) : s.sync.bus = s.bus := rfl
@[simp] theorem State.sync_outputs (s : State) : s.sync.outputs = s.outputs := rfl
@[simp] theorem State.sync_free (s : State) : s.sync.free = s.free := rfl
@[simp] theorem State.sync_agenda (s : State) : s.sync.agenda = s.agenda := rfl
@[simp] theorem State.sync_errs (s : State) : s.sync.errs = s.errs := rfl

/-! ### halt -/

@[simp] theorem State.halt_cfg (s : State) (why : HaltReason) : (s.halt why).cfg = s.cfg := rfl
@[simp] theorem State.halt_regs (s : State) (why : HaltReason) : (s.halt why).regs = s.regs := rfl
@[simp] theorem State.halt_psl (s : State) (why : HaltReason) : (s.halt why).psl = s.psl := rfl
@[simp] theorem State.halt_spb (s : State) (why : HaltReason) : (s.halt why).spb = s.spb := rfl
@[simp] theorem State.halt_ipr (s : State) (why : HaltReason) : (s.halt why).ipr = s.ipr := rfl
@[simp] theorem State.halt_mem (s : State) (why : HaltReason) : (s.halt why).mem = s.mem := rfl
@[simp] theorem State.halt_tb (s : State) (why : HaltReason) : (s.halt why).tb = s.tb := rfl
@[simp] theorem State.halt_mapLog (s : State) (why : HaltReason) : (s.halt why).mapLog = s.mapLog := rfl
@[simp] theorem State.halt_stale (s : State) (why : HaltReason) : (s.halt why).stale = s.stale := rfl
@[simp] theorem State.halt_prefetched (s : State) (why : HaltReason) : (s.halt why).prefetched = s.prefetched := rfl
@[simp] theorem State.halt_bus (s : State) (why : HaltReason) : (s.halt why).bus = s.bus := rfl
@[simp] theorem State.halt_free (s : State) (why : HaltReason) : (s.halt why).free = s.free := rfl
@[simp] theorem State.halt_agenda (s : State) (why : HaltReason) : (s.halt why).agenda = s.agenda := rfl
@[simp] theorem State.halt_errs (s : State) (why : HaltReason) : (s.halt why).errs = s.errs := rfl

/-! ### clearTp -/

@[simp] theorem State.clearTp_cfg (s : State) : s.clearTp.cfg = s.cfg := rfl
@[simp] theorem State.clearTp_regs (s : State) : s.clearTp.regs = s.regs := rfl
@[simp] theorem State.clearTp_spb (s : State) : s.clearTp.spb = s.spb := rfl
@[simp] theorem State.clearTp_ipr (s : State) : s.clearTp.ipr = s.ipr := rfl
@[simp] theorem State.clearTp_mem (s : State) : s.clearTp.mem = s.mem := rfl
@[simp] theorem State.clearTp_tb (s : State) : s.clearTp.tb = s.tb := rfl
@[simp] theorem State.clearTp_mapLog (s : State) : s.clearTp.mapLog = s.mapLog := rfl
@[simp] theorem State.clearTp_stale (s : State) : s.clearTp.stale = s.stale := rfl
@[simp] theorem State.clearTp_prefetched (s : State) : s.clearTp.prefetched = s.prefetched := rfl
@[simp] theorem State.clearTp_run (s : State) : s.clearTp.run = s.run := rfl
@[simp] theorem State.clearTp_console (s : State) : s.clearTp.console = s.console := rfl
@[simp] theorem State.clearTp_bus (s : State) : s.clearTp.bus = s.bus := rfl
@[simp] theorem State.clearTp_outputs (s : State) : s.clearTp.outputs = s.outputs := rfl
@[simp] theorem State.clearTp_free (s : State) : s.clearTp.free = s.free := rfl
@[simp] theorem State.clearTp_agenda (s : State) : s.clearTp.agenda = s.agenda := rfl
@[simp] theorem State.clearTp_errs (s : State) : s.clearTp.errs = s.errs := rfl

/-! ### withRegsOf -/

@[simp] theorem State.withRegsOf_cfg (s : State) (s0 : State) : (s.withRegsOf s0).cfg = s.cfg := rfl
@[simp] theorem State.withRegsOf_ipr (s : State) (s0 : State) : (s.withRegsOf s0).ipr = s.ipr := rfl
@[simp] theorem State.withRegsOf_mem (s : State) (s0 : State) : (s.withRegsOf s0).mem = s.mem := rfl
@[simp] theorem State.withRegsOf_tb (s : State) (s0 : State) : (s.withRegsOf s0).tb = s.tb := rfl
@[simp] theorem State.withRegsOf_mapLog (s : State) (s0 : State) : (s.withRegsOf s0).mapLog = s.mapLog := rfl
@[simp] theorem State.withRegsOf_stale (s : State) (s0 : State) : (s.withRegsOf s0).stale = s.stale := rfl
@[simp] theorem State.withRegsOf_prefetched (s : State) (s0 : State) : (s.withRegsOf s0).prefetched = s.prefetched := rfl
@[simp] theorem State.withRegsOf_run (s : State) (s0 : State) : (s.withRegsOf s0).run = s.run := rfl
@[simp] theorem State.withRegsOf_console (s : State) (s0 : State) : (s.withRegsOf s0).console = s.console := rfl
@[simp] theorem State.withRegsOf_bus (s : State) (s0 : State) : (s.withRegsOf s0).bus = s.bus := rfl
@[simp] theorem State.withRegsOf_outputs (s : State) (s0 : State) : (s.withRegsOf s0).outputs = s.outputs := rfl
@[simp] theorem State.withRegsOf_free (s : State) (s0 : State) : (s.withRegsOf s0).free = s.free := rfl
@[simp] theorem State.withRegsOf_agenda (s : State) (s0 : State) : (s.withRegsOf s0).agenda = s.agenda := rfl
@[simp] theorem State.withRegsOf_errs (s : State) (s0 : State) : (s.withRegsOf s0).errs = s.errs := rfl

/-! ### handDatip, endDatip, undone -/

@[simp] theorem State.handDatip_cfg (s : State) (c : Commander) (d : Option Commander) : (s.handDatip c d).cfg = s.cfg := rfl
@[simp] theorem State.handDatip_regs (s : State) (c : Commander) (d : Option Commander) : (s.handDatip c d).regs = s.regs := rfl
@[simp] theorem State.handDatip_psl (s : State) (c : Commander) (d : Option Commander) : (s.handDatip c d).psl = s.psl := rfl
@[simp] theorem State.handDatip_spb (s : State) (c : Commander) (d : Option Commander) : (s.handDatip c d).spb = s.spb := rfl
@[simp] theorem State.handDatip_ipr (s : State) (c : Commander) (d : Option Commander) : (s.handDatip c d).ipr = s.ipr := rfl
@[simp] theorem State.handDatip_mem (s : State) (c : Commander) (d : Option Commander) : (s.handDatip c d).mem = s.mem := rfl
@[simp] theorem State.handDatip_tb (s : State) (c : Commander) (d : Option Commander) : (s.handDatip c d).tb = s.tb := rfl
@[simp] theorem State.handDatip_mapLog (s : State) (c : Commander) (d : Option Commander) : (s.handDatip c d).mapLog = s.mapLog := rfl
@[simp] theorem State.handDatip_stale (s : State) (c : Commander) (d : Option Commander) : (s.handDatip c d).stale = s.stale := rfl
@[simp] theorem State.handDatip_prefetched (s : State) (c : Commander) (d : Option Commander) : (s.handDatip c d).prefetched = s.prefetched := rfl
@[simp] theorem State.handDatip_run (s : State) (c : Commander) (d : Option Commander) : (s.handDatip c d).run = s.run := rfl
@[simp] theorem State.handDatip_console (s : State) (c : Commander) (d : Option Commander) : (s.handDatip c d).console = s.console := rfl
@[simp] theorem State.handDatip_outputs (s : State) (c : Commander) (d : Option Commander) : (s.handDatip c d).outputs = s.outputs := rfl
@[simp] theorem State.handDatip_free (s : State) (c : Commander) (d : Option Commander) : (s.handDatip c d).free = s.free := rfl
@[simp] theorem State.handDatip_agenda (s : State) (c : Commander) (d : Option Commander) : (s.handDatip c d).agenda = s.agenda := rfl
@[simp] theorem State.handDatip_errs (s : State) (c : Commander) (d : Option Commander) : (s.handDatip c d).errs = s.errs := rfl
@[simp] theorem State.endDatip_cfg (s : State) : s.endDatip.cfg = s.cfg := rfl
@[simp] theorem State.endDatip_regs (s : State) : s.endDatip.regs = s.regs := rfl
@[simp] theorem State.endDatip_psl (s : State) : s.endDatip.psl = s.psl := rfl
@[simp] theorem State.endDatip_spb (s : State) : s.endDatip.spb = s.spb := rfl
@[simp] theorem State.endDatip_ipr (s : State) : s.endDatip.ipr = s.ipr := rfl
@[simp] theorem State.endDatip_mem (s : State) : s.endDatip.mem = s.mem := rfl
@[simp] theorem State.endDatip_tb (s : State) : s.endDatip.tb = s.tb := rfl
@[simp] theorem State.endDatip_mapLog (s : State) : s.endDatip.mapLog = s.mapLog := rfl
@[simp] theorem State.endDatip_stale (s : State) : s.endDatip.stale = s.stale := rfl
@[simp] theorem State.endDatip_prefetched (s : State) : s.endDatip.prefetched = s.prefetched := rfl
@[simp] theorem State.endDatip_run (s : State) : s.endDatip.run = s.run := rfl
@[simp] theorem State.endDatip_console (s : State) : s.endDatip.console = s.console := rfl
@[simp] theorem State.endDatip_outputs (s : State) : s.endDatip.outputs = s.outputs := rfl
@[simp] theorem State.endDatip_free (s : State) : s.endDatip.free = s.free := rfl
@[simp] theorem State.endDatip_agenda (s : State) : s.endDatip.agenda = s.agenda := rfl
@[simp] theorem State.endDatip_errs (s : State) : s.endDatip.errs = s.errs := rfl
@[simp] theorem State.undone_cfg (s s0 : State) : (s.undone s0).cfg = s.cfg := rfl
@[simp] theorem State.undone_regs (s s0 : State) : (s.undone s0).regs = s0.regs := rfl
@[simp] theorem State.undone_psl (s s0 : State) : (s.undone s0).psl = s0.psl := rfl
@[simp] theorem State.undone_spb (s s0 : State) : (s.undone s0).spb = s0.spb := rfl
@[simp] theorem State.undone_ipr (s s0 : State) : (s.undone s0).ipr = s.ipr := rfl
@[simp] theorem State.undone_mem (s s0 : State) : (s.undone s0).mem = s.mem := rfl
@[simp] theorem State.undone_tb (s s0 : State) : (s.undone s0).tb = s.tb := rfl
@[simp] theorem State.undone_mapLog (s s0 : State) : (s.undone s0).mapLog = s.mapLog := rfl
@[simp] theorem State.undone_stale (s s0 : State) : (s.undone s0).stale = s.stale := rfl
@[simp] theorem State.undone_prefetched (s s0 : State) : (s.undone s0).prefetched = s.prefetched := rfl
@[simp] theorem State.undone_run (s s0 : State) : (s.undone s0).run = s.run := rfl
@[simp] theorem State.undone_console (s s0 : State) : (s.undone s0).console = s.console := rfl
@[simp] theorem State.undone_outputs (s s0 : State) : (s.undone s0).outputs = s.outputs := rfl
@[simp] theorem State.undone_free (s s0 : State) : (s.undone s0).free = s.free := rfl
@[simp] theorem State.undone_agenda (s s0 : State) : (s.undone s0).agenda = s.agenda := rfl
@[simp] theorem State.undone_errs (s s0 : State) : (s.undone s0).errs = s.errs := rfl
@[simp] theorem State.handDatip_memctls (s : State) (c : Commander) (d : Option Commander) :
    (s.handDatip c d).bus.memctls = s.bus.memctls := rfl

/-- After an interlocked sequence of the CPU no flip-flop is the CPU's (10_state.md R121). -/
theorem State.endDatip_clear (s : State) : ∀ u ∈ s.endDatip.bus.ubas, u.datip ≠ some .cpu := by
  intro u hu
  obtain ⟨x, -, rfl⟩ := List.mem_map.1 hu
  unfold UbaState.handDatip
  split
  · simp
  · assumption

/-! ### setCC -/

@[simp] theorem State.setCC_cfg (s : State) (f : CC) : (s.setCC f).cfg = s.cfg := rfl
@[simp] theorem State.setCC_regs (s : State) (f : CC) : (s.setCC f).regs = s.regs := rfl
@[simp] theorem State.setCC_spb (s : State) (f : CC) : (s.setCC f).spb = s.spb := rfl
@[simp] theorem State.setCC_ipr (s : State) (f : CC) : (s.setCC f).ipr = s.ipr := rfl
@[simp] theorem State.setCC_mem (s : State) (f : CC) : (s.setCC f).mem = s.mem := rfl
@[simp] theorem State.setCC_tb (s : State) (f : CC) : (s.setCC f).tb = s.tb := rfl
@[simp] theorem State.setCC_mapLog (s : State) (f : CC) : (s.setCC f).mapLog = s.mapLog := rfl
@[simp] theorem State.setCC_stale (s : State) (f : CC) : (s.setCC f).stale = s.stale := rfl
@[simp] theorem State.setCC_prefetched (s : State) (f : CC) : (s.setCC f).prefetched = s.prefetched := rfl
@[simp] theorem State.setCC_run (s : State) (f : CC) : (s.setCC f).run = s.run := rfl
@[simp] theorem State.setCC_console (s : State) (f : CC) : (s.setCC f).console = s.console := rfl
@[simp] theorem State.setCC_bus (s : State) (f : CC) : (s.setCC f).bus = s.bus := rfl
@[simp] theorem State.setCC_outputs (s : State) (f : CC) : (s.setCC f).outputs = s.outputs := rfl
@[simp] theorem State.setCC_free (s : State) (f : CC) : (s.setCC f).free = s.free := rfl
@[simp] theorem State.setCC_agenda (s : State) (f : CC) : (s.setCC f).agenda = s.agenda := rfl
@[simp] theorem State.setCC_errs (s : State) (f : CC) : (s.setCC f).errs = s.errs := rfl

/-! ### emit -/

@[simp] theorem State.emit_cfg (s : State) (o : Output) : (s.emit o).cfg = s.cfg := rfl
@[simp] theorem State.emit_regs (s : State) (o : Output) : (s.emit o).regs = s.regs := rfl
@[simp] theorem State.emit_psl (s : State) (o : Output) : (s.emit o).psl = s.psl := rfl
@[simp] theorem State.emit_spb (s : State) (o : Output) : (s.emit o).spb = s.spb := rfl
@[simp] theorem State.emit_ipr (s : State) (o : Output) : (s.emit o).ipr = s.ipr := rfl
@[simp] theorem State.emit_mem (s : State) (o : Output) : (s.emit o).mem = s.mem := rfl
@[simp] theorem State.emit_tb (s : State) (o : Output) : (s.emit o).tb = s.tb := rfl
@[simp] theorem State.emit_mapLog (s : State) (o : Output) : (s.emit o).mapLog = s.mapLog := rfl
@[simp] theorem State.emit_stale (s : State) (o : Output) : (s.emit o).stale = s.stale := rfl
@[simp] theorem State.emit_prefetched (s : State) (o : Output) : (s.emit o).prefetched = s.prefetched := rfl
@[simp] theorem State.emit_run (s : State) (o : Output) : (s.emit o).run = s.run := rfl
@[simp] theorem State.emit_console (s : State) (o : Output) : (s.emit o).console = s.console := rfl
@[simp] theorem State.emit_bus (s : State) (o : Output) : (s.emit o).bus = s.bus := rfl
@[simp] theorem State.emit_free (s : State) (o : Output) : (s.emit o).free = s.free := rfl
@[simp] theorem State.emit_agenda (s : State) (o : Output) : (s.emit o).agenda = s.agenda := rfl
@[simp] theorem State.emit_errs (s : State) (o : Output) : (s.emit o).errs = s.errs := rfl

/-! ### setUba -/

@[simp] theorem State.setUba_cfg (s : State) (n : Nat) (u : UbaState) : (s.setUba n u).cfg = s.cfg := rfl
@[simp] theorem State.setUba_regs (s : State) (n : Nat) (u : UbaState) : (s.setUba n u).regs = s.regs := rfl
@[simp] theorem State.setUba_psl (s : State) (n : Nat) (u : UbaState) : (s.setUba n u).psl = s.psl := rfl
@[simp] theorem State.setUba_spb (s : State) (n : Nat) (u : UbaState) : (s.setUba n u).spb = s.spb := rfl
@[simp] theorem State.setUba_ipr (s : State) (n : Nat) (u : UbaState) : (s.setUba n u).ipr = s.ipr := rfl
@[simp] theorem State.setUba_mem (s : State) (n : Nat) (u : UbaState) : (s.setUba n u).mem = s.mem := rfl
@[simp] theorem State.setUba_tb (s : State) (n : Nat) (u : UbaState) : (s.setUba n u).tb = s.tb := rfl
@[simp] theorem State.setUba_mapLog (s : State) (n : Nat) (u : UbaState) : (s.setUba n u).mapLog = s.mapLog := rfl
@[simp] theorem State.setUba_stale (s : State) (n : Nat) (u : UbaState) : (s.setUba n u).stale = s.stale := rfl
@[simp] theorem State.setUba_prefetched (s : State) (n : Nat) (u : UbaState) : (s.setUba n u).prefetched = s.prefetched := rfl
@[simp] theorem State.setUba_run (s : State) (n : Nat) (u : UbaState) : (s.setUba n u).run = s.run := rfl
@[simp] theorem State.setUba_console (s : State) (n : Nat) (u : UbaState) : (s.setUba n u).console = s.console := rfl
@[simp] theorem State.setUba_outputs (s : State) (n : Nat) (u : UbaState) : (s.setUba n u).outputs = s.outputs := rfl
@[simp] theorem State.setUba_free (s : State) (n : Nat) (u : UbaState) : (s.setUba n u).free = s.free := rfl
@[simp] theorem State.setUba_agenda (s : State) (n : Nat) (u : UbaState) : (s.setUba n u).agenda = s.agenda := rfl
@[simp] theorem State.setUba_errs (s : State) (n : Nat) (u : UbaState) : (s.setUba n u).errs = s.errs := rfl

/-! ### setMba -/

@[simp] theorem State.setMba_cfg (s : State) (n : Nat) (m : MbaState) : (s.setMba n m).cfg = s.cfg := rfl
@[simp] theorem State.setMba_regs (s : State) (n : Nat) (m : MbaState) : (s.setMba n m).regs = s.regs := rfl
@[simp] theorem State.setMba_psl (s : State) (n : Nat) (m : MbaState) : (s.setMba n m).psl = s.psl := rfl
@[simp] theorem State.setMba_spb (s : State) (n : Nat) (m : MbaState) : (s.setMba n m).spb = s.spb := rfl
@[simp] theorem State.setMba_ipr (s : State) (n : Nat) (m : MbaState) : (s.setMba n m).ipr = s.ipr := rfl
@[simp] theorem State.setMba_mem (s : State) (n : Nat) (m : MbaState) : (s.setMba n m).mem = s.mem := rfl
@[simp] theorem State.setMba_tb (s : State) (n : Nat) (m : MbaState) : (s.setMba n m).tb = s.tb := rfl
@[simp] theorem State.setMba_mapLog (s : State) (n : Nat) (m : MbaState) : (s.setMba n m).mapLog = s.mapLog := rfl
@[simp] theorem State.setMba_stale (s : State) (n : Nat) (m : MbaState) : (s.setMba n m).stale = s.stale := rfl
@[simp] theorem State.setMba_prefetched (s : State) (n : Nat) (m : MbaState) : (s.setMba n m).prefetched = s.prefetched := rfl
@[simp] theorem State.setMba_run (s : State) (n : Nat) (m : MbaState) : (s.setMba n m).run = s.run := rfl
@[simp] theorem State.setMba_console (s : State) (n : Nat) (m : MbaState) : (s.setMba n m).console = s.console := rfl
@[simp] theorem State.setMba_outputs (s : State) (n : Nat) (m : MbaState) : (s.setMba n m).outputs = s.outputs := rfl
@[simp] theorem State.setMba_free (s : State) (n : Nat) (m : MbaState) : (s.setMba n m).free = s.free := rfl
@[simp] theorem State.setMba_agenda (s : State) (n : Nat) (m : MbaState) : (s.setMba n m).agenda = s.agenda := rfl
@[simp] theorem State.setMba_errs (s : State) (n : Nat) (m : MbaState) : (s.setMba n m).errs = s.errs := rfl

/-! ### switchStack -/

@[simp] theorem State.switchStack_cfg (s : State) (i : Fin 5) : (s.switchStack i).cfg = s.cfg := rfl
@[simp] theorem State.switchStack_psl (s : State) (i : Fin 5) : (s.switchStack i).psl = s.psl := rfl
@[simp] theorem State.switchStack_ipr (s : State) (i : Fin 5) : (s.switchStack i).ipr = s.ipr := rfl
@[simp] theorem State.switchStack_mem (s : State) (i : Fin 5) : (s.switchStack i).mem = s.mem := rfl
@[simp] theorem State.switchStack_tb (s : State) (i : Fin 5) : (s.switchStack i).tb = s.tb := rfl
@[simp] theorem State.switchStack_mapLog (s : State) (i : Fin 5) : (s.switchStack i).mapLog = s.mapLog := rfl
@[simp] theorem State.switchStack_stale (s : State) (i : Fin 5) : (s.switchStack i).stale = s.stale := rfl
@[simp] theorem State.switchStack_prefetched (s : State) (i : Fin 5) : (s.switchStack i).prefetched = s.prefetched := rfl
@[simp] theorem State.switchStack_run (s : State) (i : Fin 5) : (s.switchStack i).run = s.run := rfl
@[simp] theorem State.switchStack_console (s : State) (i : Fin 5) : (s.switchStack i).console = s.console := rfl
@[simp] theorem State.switchStack_bus (s : State) (i : Fin 5) : (s.switchStack i).bus = s.bus := rfl
@[simp] theorem State.switchStack_outputs (s : State) (i : Fin 5) : (s.switchStack i).outputs = s.outputs := rfl
@[simp] theorem State.switchStack_free (s : State) (i : Fin 5) : (s.switchStack i).free = s.free := rfl
@[simp] theorem State.switchStack_agenda (s : State) (i : Fin 5) : (s.switchStack i).agenda = s.agenda := rfl
@[simp] theorem State.switchStack_errs (s : State) (i : Fin 5) : (s.switchStack i).errs = s.errs := rfl

/-! ### countStep -/

@[simp] theorem State.countStep_cfg (s : State) : s.countStep.cfg = s.cfg := rfl
@[simp] theorem State.countStep_regs (s : State) : s.countStep.regs = s.regs := rfl
@[simp] theorem State.countStep_psl (s : State) : s.countStep.psl = s.psl := rfl
@[simp] theorem State.countStep_spb (s : State) : s.countStep.spb = s.spb := rfl
@[simp] theorem State.countStep_ipr (s : State) : s.countStep.ipr = s.ipr := rfl
@[simp] theorem State.countStep_mem (s : State) : s.countStep.mem = s.mem := rfl
@[simp] theorem State.countStep_tb (s : State) : s.countStep.tb = s.tb := rfl
@[simp] theorem State.countStep_mapLog (s : State) : s.countStep.mapLog = s.mapLog := rfl
@[simp] theorem State.countStep_stale (s : State) : s.countStep.stale = s.stale := rfl
@[simp] theorem State.countStep_prefetched (s : State) : s.countStep.prefetched = s.prefetched := rfl
@[simp] theorem State.countStep_console (s : State) : s.countStep.console = s.console := rfl
@[simp] theorem State.countStep_bus (s : State) : s.countStep.bus = s.bus := rfl
@[simp] theorem State.countStep_outputs (s : State) : s.countStep.outputs = s.outputs := rfl
@[simp] theorem State.countStep_free (s : State) : s.countStep.free = s.free := rfl
@[simp] theorem State.countStep_agenda (s : State) : s.countStep.agenda = s.agenda := rfl
@[simp] theorem State.countStep_errs (s : State) : s.countStep.errs = s.errs := rfl

/-! ### putByte -/

@[simp] theorem State.putByte_cfg (s : State) (agent : Bool) (pa c : Nat) (v : Byte) : (s.putByte agent pa c v).cfg = s.cfg := rfl
@[simp] theorem State.putByte_regs (s : State) (agent : Bool) (pa c : Nat) (v : Byte) : (s.putByte agent pa c v).regs = s.regs := rfl
@[simp] theorem State.putByte_psl (s : State) (agent : Bool) (pa c : Nat) (v : Byte) : (s.putByte agent pa c v).psl = s.psl := rfl
@[simp] theorem State.putByte_spb (s : State) (agent : Bool) (pa c : Nat) (v : Byte) : (s.putByte agent pa c v).spb = s.spb := rfl
@[simp] theorem State.putByte_ipr (s : State) (agent : Bool) (pa c : Nat) (v : Byte) : (s.putByte agent pa c v).ipr = s.ipr := rfl
@[simp] theorem State.putByte_tb (s : State) (agent : Bool) (pa c : Nat) (v : Byte) : (s.putByte agent pa c v).tb = s.tb := rfl
@[simp] theorem State.putByte_mapLog (s : State) (agent : Bool) (pa c : Nat) (v : Byte) : (s.putByte agent pa c v).mapLog = s.mapLog := rfl
@[simp] theorem State.putByte_prefetched (s : State) (agent : Bool) (pa c : Nat) (v : Byte) : (s.putByte agent pa c v).prefetched = s.prefetched := rfl
@[simp] theorem State.putByte_run (s : State) (agent : Bool) (pa c : Nat) (v : Byte) : (s.putByte agent pa c v).run = s.run := rfl
@[simp] theorem State.putByte_console (s : State) (agent : Bool) (pa c : Nat) (v : Byte) : (s.putByte agent pa c v).console = s.console := rfl
@[simp] theorem State.putByte_bus (s : State) (agent : Bool) (pa c : Nat) (v : Byte) : (s.putByte agent pa c v).bus = s.bus := rfl
@[simp] theorem State.putByte_outputs (s : State) (agent : Bool) (pa c : Nat) (v : Byte) : (s.putByte agent pa c v).outputs = s.outputs := rfl
@[simp] theorem State.putByte_free (s : State) (agent : Bool) (pa c : Nat) (v : Byte) : (s.putByte agent pa c v).free = s.free := rfl
@[simp] theorem State.putByte_agenda (s : State) (agent : Bool) (pa c : Nat) (v : Byte) : (s.putByte agent pa c v).agenda = s.agenda := rfl
@[simp] theorem State.putByte_errs (s : State) (agent : Bool) (pa c : Nat) (v : Byte) : (s.putByte agent pa c v).errs = s.errs := rfl

/-! ### dropError -/

@[simp] theorem State.dropError_cfg (s : State) (c : Nat) : (s.dropError c).cfg = s.cfg := rfl
@[simp] theorem State.dropError_regs (s : State) (c : Nat) : (s.dropError c).regs = s.regs := rfl
@[simp] theorem State.dropError_psl (s : State) (c : Nat) : (s.dropError c).psl = s.psl := rfl
@[simp] theorem State.dropError_spb (s : State) (c : Nat) : (s.dropError c).spb = s.spb := rfl
@[simp] theorem State.dropError_ipr (s : State) (c : Nat) : (s.dropError c).ipr = s.ipr := rfl
@[simp] theorem State.dropError_mem (s : State) (c : Nat) : (s.dropError c).mem = s.mem := rfl
@[simp] theorem State.dropError_tb (s : State) (c : Nat) : (s.dropError c).tb = s.tb := rfl
@[simp] theorem State.dropError_mapLog (s : State) (c : Nat) : (s.dropError c).mapLog = s.mapLog := rfl
@[simp] theorem State.dropError_stale (s : State) (c : Nat) : (s.dropError c).stale = s.stale := rfl
@[simp] theorem State.dropError_prefetched (s : State) (c : Nat) : (s.dropError c).prefetched = s.prefetched := rfl
@[simp] theorem State.dropError_run (s : State) (c : Nat) : (s.dropError c).run = s.run := rfl
@[simp] theorem State.dropError_console (s : State) (c : Nat) : (s.dropError c).console = s.console := rfl
@[simp] theorem State.dropError_bus (s : State) (c : Nat) : (s.dropError c).bus = s.bus := rfl
@[simp] theorem State.dropError_outputs (s : State) (c : Nat) : (s.dropError c).outputs = s.outputs := rfl
@[simp] theorem State.dropError_free (s : State) (c : Nat) : (s.dropError c).free = s.free := rfl
@[simp] theorem State.dropError_agenda (s : State) (c : Nat) : (s.dropError c).agenda = s.agenda := rfl

/-! ### requestCrd -/

@[simp] theorem State.requestCrd_cfg (s : State) : s.requestCrd.cfg = s.cfg := rfl
@[simp] theorem State.requestCrd_regs (s : State) : s.requestCrd.regs = s.regs := rfl
@[simp] theorem State.requestCrd_psl (s : State) : s.requestCrd.psl = s.psl := rfl
@[simp] theorem State.requestCrd_spb (s : State) : s.requestCrd.spb = s.spb := rfl
@[simp] theorem State.requestCrd_ipr (s : State) : s.requestCrd.ipr = s.ipr := rfl
@[simp] theorem State.requestCrd_mem (s : State) : s.requestCrd.mem = s.mem := rfl
@[simp] theorem State.requestCrd_tb (s : State) : s.requestCrd.tb = s.tb := rfl
@[simp] theorem State.requestCrd_mapLog (s : State) : s.requestCrd.mapLog = s.mapLog := rfl
@[simp] theorem State.requestCrd_stale (s : State) : s.requestCrd.stale = s.stale := rfl
@[simp] theorem State.requestCrd_prefetched (s : State) : s.requestCrd.prefetched = s.prefetched := rfl
@[simp] theorem State.requestCrd_run (s : State) : s.requestCrd.run = s.run := rfl
@[simp] theorem State.requestCrd_console (s : State) : s.requestCrd.console = s.console := rfl
@[simp] theorem State.requestCrd_bus (s : State) : s.requestCrd.bus = s.bus := rfl
@[simp] theorem State.requestCrd_outputs (s : State) : s.requestCrd.outputs = s.outputs := rfl
@[simp] theorem State.requestCrd_free (s : State) : s.requestCrd.free = s.free := rfl
@[simp] theorem State.requestCrd_agenda (s : State) : s.requestCrd.agenda = s.agenda := rfl

/-! ### overwrite -/

@[simp] theorem State.overwrite_cfg (s : State) (agent : Bool) (pa c : Nat) (v : Byte) : (s.overwrite agent pa c v).cfg = s.cfg := by
  unfold State.overwrite; repeat' split
  all_goals rfl
@[simp] theorem State.overwrite_regs (s : State) (agent : Bool) (pa c : Nat) (v : Byte) : (s.overwrite agent pa c v).regs = s.regs := by
  unfold State.overwrite; repeat' split
  all_goals rfl
@[simp] theorem State.overwrite_psl (s : State) (agent : Bool) (pa c : Nat) (v : Byte) : (s.overwrite agent pa c v).psl = s.psl := by
  unfold State.overwrite; repeat' split
  all_goals rfl
@[simp] theorem State.overwrite_spb (s : State) (agent : Bool) (pa c : Nat) (v : Byte) : (s.overwrite agent pa c v).spb = s.spb := by
  unfold State.overwrite; repeat' split
  all_goals rfl
@[simp] theorem State.overwrite_ipr (s : State) (agent : Bool) (pa c : Nat) (v : Byte) : (s.overwrite agent pa c v).ipr = s.ipr := by
  unfold State.overwrite; repeat' split
  all_goals rfl
@[simp] theorem State.overwrite_tb (s : State) (agent : Bool) (pa c : Nat) (v : Byte) : (s.overwrite agent pa c v).tb = s.tb := by
  unfold State.overwrite; repeat' split
  all_goals rfl
@[simp] theorem State.overwrite_mapLog (s : State) (agent : Bool) (pa c : Nat) (v : Byte) : (s.overwrite agent pa c v).mapLog = s.mapLog := by
  unfold State.overwrite; repeat' split
  all_goals rfl
@[simp] theorem State.overwrite_prefetched (s : State) (agent : Bool) (pa c : Nat) (v : Byte) : (s.overwrite agent pa c v).prefetched = s.prefetched := by
  unfold State.overwrite; repeat' split
  all_goals rfl
@[simp] theorem State.overwrite_run (s : State) (agent : Bool) (pa c : Nat) (v : Byte) : (s.overwrite agent pa c v).run = s.run := by
  unfold State.overwrite; repeat' split
  all_goals rfl
@[simp] theorem State.overwrite_console (s : State) (agent : Bool) (pa c : Nat) (v : Byte) : (s.overwrite agent pa c v).console = s.console := by
  unfold State.overwrite; repeat' split
  all_goals rfl
@[simp] theorem State.overwrite_bus (s : State) (agent : Bool) (pa c : Nat) (v : Byte) : (s.overwrite agent pa c v).bus = s.bus := by
  unfold State.overwrite; repeat' split
  all_goals rfl
@[simp] theorem State.overwrite_outputs (s : State) (agent : Bool) (pa c : Nat) (v : Byte) : (s.overwrite agent pa c v).outputs = s.outputs := by
  unfold State.overwrite; repeat' split
  all_goals rfl
@[simp] theorem State.overwrite_free (s : State) (agent : Bool) (pa c : Nat) (v : Byte) : (s.overwrite agent pa c v).free = s.free := by
  unfold State.overwrite; repeat' split
  all_goals rfl
@[simp] theorem State.overwrite_agenda (s : State) (agent : Bool) (pa c : Nat) (v : Byte) : (s.overwrite agent pa c v).agenda = s.agenda := by
  unfold State.overwrite; repeat' split
  all_goals rfl

/-! ### onUba -/

@[simp] theorem State.onUba_cfg (s : State) (n : Nat) (f : UbaState → UbaState) : (s.onUba n f).cfg = s.cfg := rfl
@[simp] theorem State.onUba_regs (s : State) (n : Nat) (f : UbaState → UbaState) : (s.onUba n f).regs = s.regs := rfl
@[simp] theorem State.onUba_psl (s : State) (n : Nat) (f : UbaState → UbaState) : (s.onUba n f).psl = s.psl := rfl
@[simp] theorem State.onUba_spb (s : State) (n : Nat) (f : UbaState → UbaState) : (s.onUba n f).spb = s.spb := rfl
@[simp] theorem State.onUba_ipr (s : State) (n : Nat) (f : UbaState → UbaState) : (s.onUba n f).ipr = s.ipr := rfl
@[simp] theorem State.onUba_mem (s : State) (n : Nat) (f : UbaState → UbaState) : (s.onUba n f).mem = s.mem := rfl
@[simp] theorem State.onUba_tb (s : State) (n : Nat) (f : UbaState → UbaState) : (s.onUba n f).tb = s.tb := rfl
@[simp] theorem State.onUba_mapLog (s : State) (n : Nat) (f : UbaState → UbaState) : (s.onUba n f).mapLog = s.mapLog := rfl
@[simp] theorem State.onUba_stale (s : State) (n : Nat) (f : UbaState → UbaState) : (s.onUba n f).stale = s.stale := rfl
@[simp] theorem State.onUba_prefetched (s : State) (n : Nat) (f : UbaState → UbaState) : (s.onUba n f).prefetched = s.prefetched := rfl
@[simp] theorem State.onUba_run (s : State) (n : Nat) (f : UbaState → UbaState) : (s.onUba n f).run = s.run := rfl
@[simp] theorem State.onUba_console (s : State) (n : Nat) (f : UbaState → UbaState) : (s.onUba n f).console = s.console := rfl
@[simp] theorem State.onUba_outputs (s : State) (n : Nat) (f : UbaState → UbaState) : (s.onUba n f).outputs = s.outputs := rfl
@[simp] theorem State.onUba_free (s : State) (n : Nat) (f : UbaState → UbaState) : (s.onUba n f).free = s.free := rfl
@[simp] theorem State.onUba_agenda (s : State) (n : Nat) (f : UbaState → UbaState) : (s.onUba n f).agenda = s.agenda := rfl
@[simp] theorem State.onUba_errs (s : State) (n : Nat) (f : UbaState → UbaState) : (s.onUba n f).errs = s.errs := rfl

/-! ### noteChanges -/

@[simp] theorem State.noteChanges_cfg (s : State) (cs : List MapChange) : (s.noteChanges cs).cfg = s.cfg := by
  unfold State.noteChanges; split <;> rfl
@[simp] theorem State.noteChanges_regs (s : State) (cs : List MapChange) : (s.noteChanges cs).regs = s.regs := by
  unfold State.noteChanges; split <;> rfl
@[simp] theorem State.noteChanges_psl (s : State) (cs : List MapChange) : (s.noteChanges cs).psl = s.psl := by
  unfold State.noteChanges; split <;> rfl
@[simp] theorem State.noteChanges_spb (s : State) (cs : List MapChange) : (s.noteChanges cs).spb = s.spb := by
  unfold State.noteChanges; split <;> rfl
@[simp] theorem State.noteChanges_ipr (s : State) (cs : List MapChange) : (s.noteChanges cs).ipr = s.ipr := by
  unfold State.noteChanges; split <;> rfl
@[simp] theorem State.noteChanges_mem (s : State) (cs : List MapChange) : (s.noteChanges cs).mem = s.mem := by
  unfold State.noteChanges; split <;> rfl
@[simp] theorem State.noteChanges_tb (s : State) (cs : List MapChange) : (s.noteChanges cs).tb = s.tb := by
  unfold State.noteChanges; split <;> rfl
@[simp] theorem State.noteChanges_stale (s : State) (cs : List MapChange) : (s.noteChanges cs).stale = s.stale := by
  unfold State.noteChanges; split <;> rfl
@[simp] theorem State.noteChanges_prefetched (s : State) (cs : List MapChange) : (s.noteChanges cs).prefetched = s.prefetched := by
  unfold State.noteChanges; split <;> rfl
@[simp] theorem State.noteChanges_run (s : State) (cs : List MapChange) : (s.noteChanges cs).run = s.run := by
  unfold State.noteChanges; split <;> rfl
@[simp] theorem State.noteChanges_console (s : State) (cs : List MapChange) : (s.noteChanges cs).console = s.console := by
  unfold State.noteChanges; split <;> rfl
@[simp] theorem State.noteChanges_bus (s : State) (cs : List MapChange) : (s.noteChanges cs).bus = s.bus := by
  unfold State.noteChanges; split <;> rfl
@[simp] theorem State.noteChanges_outputs (s : State) (cs : List MapChange) : (s.noteChanges cs).outputs = s.outputs := by
  unfold State.noteChanges; split <;> rfl
@[simp] theorem State.noteChanges_free (s : State) (cs : List MapChange) : (s.noteChanges cs).free = s.free := by
  unfold State.noteChanges; split <;> rfl
@[simp] theorem State.noteChanges_errs (s : State) (cs : List MapChange) : (s.noteChanges cs).errs = s.errs := by
  unfold State.noteChanges; split <;> rfl
@[simp] theorem State.noteChanges_agenda (s : State) (cs : List MapChange) : (s.noteChanges cs).agenda = s.agenda := by
  unfold State.noteChanges; split <;> rfl

/-! ### What the updates change -/

@[simp] theorem State.sync_stale (s : State) : s.sync.stale = [] := rfl
@[simp] theorem State.sync_prefetched (s : State) : s.sync.prefetched = [] := rfl
@[simp] theorem State.emit_outputs (s : State) (o : Output) : (s.emit o).outputs = o :: s.outputs := rfl
@[simp] theorem State.halt_run (s : State) (why : HaltReason) : (s.halt why).run = ⟨true, why, false, none⟩ := rfl
@[simp] theorem State.withRegsOf_regs (s s0 : State) : (s.withRegsOf s0).regs = s0.regs := rfl
@[simp] theorem State.withRegsOf_spb (s s0 : State) : (s.withRegsOf s0).spb = s0.spb := rfl
@[simp] theorem State.withRegsOf_psl (s s0 : State) : (s.withRegsOf s0).psl = s0.psl := rfl
@[simp] theorem State.setCC_psl (s : State) (f : CC) : (s.setCC f).psl = setField s.psl 0 f.bits := rfl
@[simp] theorem State.clearTp_psl (s : State) : s.clearTp.psl = setBit s.psl pslTP false := rfl

/-- The log only grows, at its head. -/
theorem State.noteChanges_mapLog (s : State) (cs : List MapChange) :
    ∃ l, (s.noteChanges cs).mapLog = l ++ s.mapLog := by
  unfold State.noteChanges
  split
  · exact ⟨cs, rfl⟩
  · exact ⟨[], rfl⟩

/-- A register written reads back. -/
@[simp] theorem State.reg_setReg_same (s : State) (n : Reg) (v : Word) : (s.setReg n v).reg n = v := by
  simp [State.reg, State.setReg]

/-- A register written leaves every other one. -/
theorem State.reg_setReg_ne (s : State) {m n : Reg} (h : m ≠ n) (v : Word) : (s.setReg n v).reg m = s.reg m := by
  have h' : n.val ≠ m.val := fun e => h (Fin.ext e.symm)
  simp [State.reg, State.setReg, h']

/-- A register written, read at any number. -/
theorem State.reg_setReg (s : State) (m n : Reg) (v : Word) :
    (s.setReg n v).reg m = if m = n then v else s.reg m := by
  by_cases h : m = n
  · subst h
    simp
  · rw [if_neg h, s.reg_setReg_ne h]

@[simp] theorem State.reg_setCC (s : State) (f : CC) (n : Reg) : (s.setCC f).reg n = s.reg n := rfl
@[simp] theorem State.reg_sync (s : State) (n : Reg) : s.sync.reg n = s.reg n := rfl
@[simp] theorem State.reg_clearTp (s : State) (n : Reg) : s.clearTp.reg n = s.reg n := rfl
@[simp] theorem State.reg_emit (s : State) (o : Output) (n : Reg) : (s.emit o).reg n = s.reg n := rfl
@[simp] theorem State.reg_halt (s : State) (why : HaltReason) (n : Reg) : (s.halt why).reg n = s.reg n := rfl

end Sys2Proof.Machine
end

