-- ==== Sys2Proof/Laws/Frame.lean ====
section
/-! SUPPORT. What memory references and operand evaluation leave unchanged. -/
namespace Sys2Proof.Machine
open Sys2Proof

variable {io wr : Bool} {regs : List Reg}

theorem tb_refl (s : State) : ∀ e ∈ s.tb, ∃ f ∈ s.tb, f.vpn = e.vpn ∧ f.at_ = e.at_ ∧ f.sys = e.sys :=
  fun e he => ⟨e, he, rfl, rfl, rfl⟩

theorem log_refl {wr : Bool} (s : State) :
    (∃ l, s.mapLog = l ++ s.mapLog) ∧ (wr = false → s.mapLog = s.mapLog) := ⟨⟨[], rfl⟩, fun _ => rfl⟩

theorem errs_refl (s : State) : s.errs.memory ⊆ s.errs.memory := fun _ h => h

theorem Kept.refl (io wr : Bool) (regs : List Reg) (s : State) : Kept io wr regs s s where
  cfg := rfl
  psl := rfl
  spb := rfl
  ipr := rfl
  run := rfl
  console := rfl
  agenda := rfl
  reg _ _ := rfl
  memctls _ := rfl
  bus _ := ⟨rfl, rfl⟩
  mem _ := ⟨rfl, rfl⟩
  prefetched := rfl
  mapLog := log_refl s
  tb := tb_refl s
  wf := id
  memErrs := errs_refl s
  errs := fun _ => ⟨rfl, fun _ => rfl⟩

/-- A memory without errors stays so. -/
theorem Kept.noErrs {s t : State} (h : Kept io wr regs s t) :
    (s.errs.memory = [] → t.errs.memory = []) ∧
      ∀ {l : List MemError}, l ⊆ t.errs.memory → l ⊆ s.errs.memory :=
  ⟨fun e => List.eq_nil_of_subset_nil (e ▸ h.memErrs), fun k _ m => h.memErrs (k m)⟩

theorem Kept.trans {s t u : State} (h : Kept io wr regs s t) (g : Kept io wr regs t u) : Kept io wr regs s u where
  cfg := g.cfg.trans h.cfg
  psl := g.psl.trans h.psl
  spb := g.spb.trans h.spb
  ipr := g.ipr.trans h.ipr
  run := g.run.trans h.run
  console := g.console.trans h.console
  agenda := g.agenda.trans h.agenda
  reg n hn := (g.reg n hn).trans (h.reg n hn)
  memctls e := (g.memctls e).trans (h.memctls e)
  bus e := ⟨(g.bus e).1.trans (h.bus e).1, (g.bus e).2.trans (h.bus e).2⟩
  mem e := ⟨(g.mem e).1.trans (h.mem e).1, (g.mem e).2.trans (h.mem e).2⟩
  prefetched := g.prefetched.trans h.prefetched
  mapLog := by
    obtain ⟨⟨k, hk⟩, he⟩ := h.mapLog
    obtain ⟨⟨l, hl⟩, ge⟩ := g.mapLog
    exact ⟨⟨l ++ k, by rw [hl, hk, List.append_assoc]⟩, fun e => (ge e).trans (he e)⟩
  tb e he := by
    obtain ⟨f, hf, v, a, y⟩ := h.tb e he
    obtain ⟨k, hk, v', a', y'⟩ := g.tb f hf
    exact ⟨k, hk, v'.trans v, a'.trans a, y'.trans y⟩
  wf := g.wf ∘ h.wf
  memErrs := h.noErrs.2 g.memErrs
  errs e := by
    have g' := g.errs (h.noErrs.1 e)
    have h' := h.errs e
    exact ⟨g'.1.trans h'.1, fun n => (g'.2 n).trans (h'.2 n)⟩

theorem Kept.chain (io wr : Bool) (regs : List Reg) : Chain (Kept io wr regs) := ⟨Kept.refl io wr regs, Kept.trans⟩

/-- A stronger statement gives a weaker one. -/
theorem Kept.weaken {io' wr' : Bool} {regs' : List Reg} {s t : State} (h : Kept io wr regs s t)
    (hio : io = true → io' = true) (hwr : wr = true → wr' = true) (hr : ∀ n ∈ regs, n ∈ regs') :
    Kept io' wr' regs' s t where
  cfg := h.cfg
  psl := h.psl
  spb := h.spb
  ipr := h.ipr
  run := h.run
  console := h.console
  agenda := h.agenda
  reg n hn := h.reg n fun hm => hn (hr n hm)
  memctls e := h.memctls (by cases io <;> cases wr <;> simp_all)
  bus e := h.bus (by cases io <;> simp_all)
  mem e := h.mem (by cases wr <;> simp_all)
  prefetched := h.prefetched
  mapLog := ⟨h.mapLog.1, fun e => h.mapLog.2 (by cases wr <;> simp_all)⟩
  tb := h.tb
  wf := h.wf
  memErrs := h.memErrs
  errs e := ⟨(h.errs e).1, fun n => (h.errs e).2 (by cases io <;> cases wr <;> simp_all)⟩

/-! ### States that differ in a field no rule of an operand names -/

theorem kept_free (s : State) (n : Nat) : Kept io wr regs s { s with free := n } :=
  ⟨rfl, rfl, rfl, rfl, rfl, rfl, rfl, fun _ _ => rfl, fun _ => rfl, fun _ => ⟨rfl, rfl⟩, fun _ => ⟨rfl, rfl⟩, rfl,
    log_refl s, tb_refl s, id, errs_refl s, fun _ => ⟨rfl, fun _ => rfl⟩⟩

theorem kept_tb (s : State) (tb : List TbEntry)
    (h : ∀ e ∈ s.tb, ∃ f ∈ tb, f.vpn = e.vpn ∧ f.at_ = e.at_ ∧ f.sys = e.sys) : Kept io wr regs s { s with tb := tb } :=
  ⟨rfl, rfl, rfl, rfl, rfl, rfl, rfl, fun _ _ => rfl, fun _ => rfl, fun _ => ⟨rfl, rfl⟩, fun _ => ⟨rfl, rfl⟩, rfl,
    log_refl s, h, id, errs_refl s, fun _ => ⟨rfl, fun _ => rfl⟩⟩

/-- What a read of a memory in error may change. -/
theorem kept_errs (s : State) (n : Nat) (e : Errors) (h : e.memory ⊆ s.errs.memory)
    (g : s.errs.memory = [] → e = s.errs) : Kept io wr regs s { s with free := n, errs := e } :=
  ⟨rfl, rfl, rfl, rfl, rfl, rfl, rfl, fun _ _ => rfl, fun _ => rfl, fun _ => ⟨rfl, rfl⟩, fun _ => ⟨rfl, rfl⟩, rfl,
    log_refl s, tb_refl s, id, h, fun m => ⟨by rw [g m], fun _ => g m⟩⟩

theorem draw_kept (w : Nat) : Keeps (Kept io wr regs) (draw w) := fun s => kept_free s _

theorem drawBit_kept : Keeps (Kept io wr regs) drawBit :=
  (Kept.chain io wr regs).bind (draw_kept 1) fun _ => (Kept.chain io wr regs).pure _

/-! ### Main memory -/

theorem cpuLoadByte_kept (pa : Nat) : Keeps (Kept io wr regs) (cpuLoadByte pa) := by
  intro s
  unfold cpuLoadByte
  cases s.cell pa with
  | none => exact Kept.refl _ _ _ s
  | some c =>
    dsimp only
    obtain ⟨n, ms, r, h, hm⟩ := s.readCell_spec c
    by_cases hn : s.errs.memory = []
    · rw [State.readCell_good (State.errorAt_nil hn c)]
      exact Kept.refl _ _ _ s
    · have k (q : BitVec 6) :
          Kept io wr regs s { s with free := n, errs := { s.errs with memory := ms, regC := r, requests := q } } :=
        kept_errs s n _ hm fun e => absurd e hn
      generalize s.readCell c = x at h
      obtain ⟨tag, t⟩ := x
      dsimp only at h
      subst h
      cases tag <;> exact k _

theorem cpuLoad_kept (pas : List Nat) : Keeps (Kept io wr regs) (cpuLoad pas) := by
  induction pas with
  | nil => exact (Kept.chain io wr regs).pure _
  | cons pa t ih =>
    exact (Kept.chain io wr regs).bind (cpuLoadByte_kept pa) fun _ =>
      (Kept.chain io wr regs).bind ih fun _ => (Kept.chain io wr regs).pure _

theorem needMemory_kept (pas : List Nat) : Keeps (Kept io wr regs) (needMemory pas) := by
  induction pas with
  | nil => exact (Kept.chain io wr regs).pure _
  | cons pa t ih =>
    refine (Kept.chain io wr regs).bind (Kept.chain io wr regs).get fun s => ?_
    cases s.cell pa with
    | none => exact (Kept.chain io wr regs).raise _
    | some _ => exact ih

theorem cpuStoreByte_kept (pa : Nat) (v : Byte) : Keeps (Kept io true regs) (cpuStoreByte pa v) := by
  intro s
  unfold cpuStoreByte
  cases s.cell pa with
  | none => exact Kept.refl _ _ _ s
  | some c =>
    dsimp only
    by_cases hn : s.errs.memory = []
    · rw [State.overwrite_good hn]
      exact ⟨rfl, rfl, rfl, rfl, rfl, rfl, rfl, fun _ _ => rfl, fun _ => rfl, fun _ => ⟨rfl, rfl⟩,
        (fun e => nomatch e), rfl, log_refl s, tb_refl s, fun h => memWrite_wf h _ _, errs_refl s,
        fun _ => ⟨rfl, fun _ => rfl⟩⟩
    · obtain ⟨m, l, ms, h, hm, hw⟩ := s.overwrite_spec _ pa c v
      rw [h]
      exact ⟨rfl, rfl, rfl, rfl, rfl, rfl, rfl, fun _ _ => rfl, fun _ => rfl, fun _ => ⟨rfl, rfl⟩,
        (fun e => nomatch e), rfl, log_refl s, tb_refl s, hw, hm, fun e => absurd e hn⟩

theorem cpuStore_kept (pas : List Nat) (v : Nat) : Keeps (Kept io true regs) (cpuStore pas v) := by
  induction pas generalizing v with
  | nil => exact (Kept.chain io true regs).pure _
  | cons pa t ih => exact (Kept.chain io true regs).bind (cpuStoreByte_kept pa _) fun _ => ih _

theorem kept_noteChanges (s : State) (cs : List MapChange) : Kept io true regs s (s.noteChanges cs) :=
  ⟨by simp, by simp, by simp, by simp, by simp, by simp, by simp, fun _ _ => by simp [State.reg], fun _ => by simp,
    fun _ => by simp, fun _ => by simp, by simp, ⟨s.noteChanges_mapLog cs, fun e => nomatch e⟩,
    fun e he => ⟨e, by simpa using he, rfl, rfl, rfl⟩, by simp, by simp, fun _ => by simp⟩

theorem programStore_kept (pas : List Nat) (v : Nat) : Keeps (Kept io true regs) (programStore pas v) :=
  (Kept.chain io true regs).bind (Keeps.modify fun s => kept_noteChanges s _) fun _ => cpuStore_kept _ _

theorem physWriteLong_kept (pa : Nat) (v : Word) : Keeps (Kept io true regs) (physWriteLong pa v) :=
  (Kept.chain io true regs).bind (needMemory_kept _) fun _ => programStore_kept _ _

end Sys2Proof.Machine
end

