-- ==== Sys2Proof/Laws/FrameIo.lean ====
section
/-! SUPPORT. What references to I/O space leave unchanged. -/
namespace Sys2Proof.Machine
open Sys2Proof

variable {io wr : Bool} {regs : List Reg}

/-- A change of the bus and the outputs that leaves the memory controllers alone. -/
theorem kept_bus {s t : State} (h : t = { s with bus := t.bus, outputs := t.outputs })
    (hm : t.bus.memctls = s.bus.memctls) : Kept true wr regs s t := by
  rw [h]
  exact ⟨rfl, rfl, rfl, rfl, rfl, rfl, rfl, fun _ _ => rfl, fun _ => hm, fun e => Bool.noConfusion e,
    fun _ => ⟨rfl, rfl⟩, rfl, log_refl s, tb_refl s, id, errs_refl s, fun _ => ⟨rfl, fun _ => rfl⟩⟩

/-- A change of the bus, the outputs, main memory that keeps its form, and errors, of which none arises in memory. -/
theorem kept_device {s t : State}
    (h : t = { s with bus := t.bus, outputs := t.outputs, mem := t.mem, stale := t.stale, errs := t.errs })
    (hm : Memory.wf s.mem = true → Memory.wf t.mem = true) (he : t.errs.memory ⊆ s.errs.memory)
    (hq : t.errs.requests = s.errs.requests) : Kept true true regs s t := by
  rw [h]
  exact ⟨rfl, rfl, rfl, rfl, rfl, rfl, rfl, fun _ _ => rfl, fun e => Bool.noConfusion e, fun e => Bool.noConfusion e,
    fun e => Bool.noConfusion e, rfl, log_refl s, tb_refl s, hm, he, fun _ => ⟨hq, fun e => Bool.noConfusion e⟩⟩

theorem setUba_kept (s : State) (n : Nat) (u : UbaState) : Kept true wr regs s (s.setUba n u) := kept_bus rfl rfl

theorem putUba_kept (n : Nat) (u : UbaState) : Keeps (Kept true wr regs) (putUba n u) :=
  Keeps.modify fun _ => kept_bus rfl rfl

theorem putMba_kept (n : Nat) (m : MbaState) : Keeps (Kept true wr regs) (putMba n m) :=
  Keeps.modify fun _ => kept_bus rfl rfl

theorem emit_kept (o : Output) : Keeps (Kept true wr regs) (emit o) := Keeps.modify fun _ => kept_bus rfl rfl

theorem setMemCtl_kept (k : Nat) (m : MemCtlState) : Keeps (Kept true true regs) (setMemCtl k m) :=
  Keeps.modify fun s => kept_device rfl id (errs_refl s) rfl

theorem writeRegC_kept (k : Nat) (v : Word) : Keeps (Kept true true regs) (writeRegC k v) :=
  Keeps.modify fun s => kept_device rfl id (errs_refl s) rfl

/-! ### Main memory stored by other agents -/

/-- What a store to main memory by another agent may change: bytes, and errors that a whole quadword or a correction removes. -/
structure DeviceStored (s t : State) : Prop where
  frame : t = { s with mem := t.mem, stale := t.stale, errs := t.errs }
  wf : Memory.wf s.mem = true → Memory.wf t.mem = true
  memErrs : t.errs.memory ⊆ s.errs.memory
  requests : t.errs.requests = s.errs.requests

theorem DeviceStored.refl (s : State) : DeviceStored s s := ⟨rfl, id, errs_refl s, rfl⟩

theorem DeviceStored.trans {s t u : State} (h : DeviceStored s t) (g : DeviceStored t u) : DeviceStored s u :=
  ⟨by rw [g.frame, h.frame], g.wf ∘ h.wf, fun _ e => h.memErrs (g.memErrs e), g.requests.trans h.requests⟩

theorem State.setMemByte_shape (s : State) (pa : Nat) (v : Byte) : DeviceStored s (s.setMemByte pa v) := by
  unfold State.setMemByte
  cases s.cell pa with
  | none => exact DeviceStored.refl s
  | some c =>
    obtain ⟨m, l, ms, h, hm, hw⟩ := s.overwrite_spec _ pa c v
    dsimp only
    rw [h]
    exact ⟨rfl, hw, hm, rfl⟩

theorem storeMasked_shape (s : State) (pa : Nat) (data : BitVec 64) (mask : Byte) (n : Nat) :
    DeviceStored s (storeMasked s pa data mask n) := by
  induction n with
  | zero => exact DeviceStored.refl s
  | succ n ih =>
    unfold storeMasked
    dsimp only
    split
    · exact ih.trans (State.setMemByte_shape _ _ _)
    · exact ih

theorem State.renewQuad_shape (s : State) (pa : Nat) : DeviceStored s (s.renewQuad pa) := by
  unfold State.renewQuad
  cases s.cell pa with
  | none => exact DeviceStored.refl s
  | some c => exact ⟨rfl, id, fun e he => (List.mem_filter.1 he).1, rfl⟩

theorem storeQuad_shape (s : State) (pa : Nat) (data : BitVec 64) (mask : Byte) (n : Nat) :
    DeviceStored s (storeQuad s pa data mask n) := by
  unfold storeQuad
  split
  · exact (State.renewQuad_shape s pa).trans (storeMasked_shape _ _ _ _ _)
  · exact storeMasked_shape _ _ _ _ _

theorem writePath_kept (s : State) (n : Nat) (u : UbaState) (d : Fin 16) (pa n8 m : Nat) (after : DataPath) :
    Kept true true regs s (writePath s n u d pa n8 m after).1 := by
  unfold writePath
  dsimp only
  split
  · have h := storeQuad_shape s pa u.dpr[d].data u.dpr[d].bs n8
    generalize storeQuad s pa u.dpr[d].data u.dpr[d].bs n8 = t at h
    refine kept_device ?_ h.wf h.memErrs h.requests
    rw [h.frame]
    rfl
  · exact kept_device rfl id (errs_refl s) rfl

theorem unibusWrite_kept (n : Nat) (u : UbaState) (pa off : Nat) (mask : BitVec 4) (ilk : Bool) (v : Word) :
    Keeps (Kept true wr regs) (unibusWrite n u pa off mask ilk v) := by
  have hR := Kept.chain true wr regs
  exact Keeps.ite (fun _ => hR.raise _) fun _ => Keeps.ite (fun _ => hR.raise _) fun _ => putUba_kept _ _

theorem partialIoWrite_kept (pa : Nat) (mask : BitVec 4) (v : Word) :
    Keeps (Kept true wr regs) (partialIoWrite pa mask v) := by
  have hR := Kept.chain true wr regs
  refine hR.bind hR.get fun s => ?_
  cases s.responder pa with
  | none => exact hR.raise _
  | some r =>
    obtain ⟨r, off⟩ := r
    cases r with
    | memCtl _ _ _ => exact Keeps.ite (fun _ => hR.raise _) fun _ => hR.raise _
    | ubaReg _ _ _ => exact hR.raise _
    | mba _ _ _ => exact Keeps.ite (fun _ => hR.raise _) fun _ => hR.raise _
    | unibus n c u => exact unibusWrite_kept _ _ _ _ _ _ _

theorem purgeToIo_kept (n : Nat) (u : UbaState) (d : Fin 16) (pa m : Nat) (after : DataPath) :
    Keeps (Kept true true regs) (purgeToIo n u d pa m after) := by
  have hR := Kept.chain true true regs
  refine hR.bind (putUba_kept _ _) fun _ => hR.tryCatch (partialIoWrite_kept _ _ _) fun t => ?_
  cases t with
  | refuse r => exact hR.raise _
  | _ => exact Keeps.modify fun _ => kept_bus rfl rfl

/-- A purge changes the adapter, what it writes on a UNIBUS, and main memory. -/
theorem purgePath_kept (n : Nat) (u : UbaState) (d : Fin 16) : Keeps (Kept true true regs) (purgePath n u d) := by
  have hR := Kept.chain true true regs
  refine Keeps.ite (fun _ => hR.pure _) fun _ => Keeps.ite (fun _ => putUba_kept _ _) fun _ => ?_
  refine Keeps.ite (fun _ => putUba_kept _ _) fun _ => Keeps.ite (fun _ => hR.raise _) fun _ => ?_
  refine Keeps.ite (fun _ => purgeToIo_kept _ _ _ _ _ _) fun _ => ?_
  exact Keeps.modify fun s => writePath_kept ..

/-! ### Transactions of the CPU -/

theorem memCtlRead_kept (k : Nat) (c : Config.MemCtl) (m : MemCtlState) (pa off : Nat) (mask : BitVec 4) :
    Keeps (Kept true wr regs) (memCtlRead k c m pa off mask) := by
  have hR := Kept.chain true wr regs
  refine hR.bind hR.get fun s => ?_
  cases s.romLong c off with
  | some v => exact hR.pure _
  | none =>
    refine Keeps.ite (fun _ => Keeps.ite (fun _ => hR.raise _) fun _ => ?_) fun _ => hR.raise _
    exact hR.bind (draw_kept 32) fun _ => hR.pure _

theorem memCtlWrite_kept (k : Nat) (m : MemCtlState) (pa off : Nat) (mask : BitVec 4) (v : Word) :
    Keeps (Kept true true regs) (memCtlWrite k m pa off mask v) := by
  have hR := Kept.chain true true regs
  refine Keeps.ite (fun _ => Keeps.ite (fun _ => hR.raise _) fun _ => ?_) fun _ => hR.raise _
  refine Keeps.ite (fun _ => setMemCtl_kept _ _) fun _ => Keeps.ite (fun _ => ?_) fun _ => writeRegC_kept _ _
  exact Keeps.ite (fun _ => hR.raise _) fun _ => setMemCtl_kept _ _

theorem readBrrvr_kept (n : Nat) (c : Config.Uba) (u : UbaState) (level : Nat) :
    Keeps (Kept true wr regs) (readBrrvr n c u level) := by
  have hR := Kept.chain true wr regs
  refine Keeps.ite (fun _ => ?_) fun _ => hR.pure _
  cases u.brs.find? fun r => r.level == level with
  | none => exact hR.pure _
  | some r => exact hR.bind (putUba_kept _ _) fun _ => hR.pure _

theorem ubaRegRead_kept (n : Nat) (c : Config.Uba) (u : UbaState) (pa off : Nat) :
    Keeps (Kept true wr regs) (ubaRegRead n c u pa off) := by
  have hR := Kept.chain true wr regs
  unfold ubaRegRead
  repeat' first
    | with_reducible refine Keeps.ite (fun _ => ?_) fun _ => ?_
    | exact hR.raise _
    | exact hR.pure _
    | exact readBrrvr_kept _ _ _ _

theorem startUba_kept (s : State) (n : Nat) (u : UbaState) : Kept true wr regs s (s.startUba n u) := by
  unfold State.startUba State.releaseInterlock
  dsimp only
  cases (s.handDatip (.adapter n) none).bus.ubas[n]? with
  | none => exact kept_bus rfl rfl
  | some u =>
    dsimp only
    split
    · exact kept_bus rfl rfl
    · exact kept_bus rfl rfl

theorem writeUacr_kept (n : Nat) (u : UbaState) (v : Word) : Keeps (Kept true true regs) (writeUacr n u v) := by
  refine Keeps.ite (fun _ => Keeps.modify fun s => startUba_kept _ _ _) fun _ => ?_
  exact Keeps.ite (fun _ => Keeps.modify fun s => startUba_kept _ _ _) fun _ => putUba_kept _ _

theorem ubaRegWrite_kept (n : Nat) (u : UbaState) (pa off : Nat) (mask : BitVec 4) (v : Word) :
    Keeps (Kept true true regs) (ubaRegWrite n u pa off mask v) := by
  have hR := Kept.chain true true regs
  unfold ubaRegWrite
  repeat' first
    | with_reducible refine Keeps.ite (fun _ => ?_) fun _ => ?_
    | with_reducible refine Keeps.dite (fun _ => ?_) fun _ => ?_
    | exact hR.raise _
    | exact putUba_kept _ _
    | exact writeUacr_kept _ _ _
    | exact hR.bind (putUba_kept _ _) fun _ => Keeps.ite (fun _ => purgePath_kept _ _ _) fun _ => hR.pure _

theorem drainPosted_kept (n : Nat) (c : Config.Uba) (u : UbaState) : Keeps (Kept true wr regs) (drainPosted n c u) :=
  (Kept.chain true wr regs).bind (Keeps.modify fun _ => kept_bus rfl rfl) fun _ => (Kept.chain true wr regs).pure _

theorem unibusRead_kept (n : Nat) (c : Config.Uba) (u : UbaState) (pa off : Nat) (mask : BitVec 4) (ilk : Bool) :
    Keeps (Kept true wr regs) (unibusRead n c u pa off mask ilk) := by
  have hR := Kept.chain true wr regs
  refine Keeps.ite (fun _ => hR.raise _) fun _ => Keeps.ite (fun _ => hR.raise _) fun _ => ?_
  refine hR.bind hR.get fun s => Keeps.ite (fun _ => hR.raise _) fun _ => ?_
  refine hR.bind (drainPosted_kept _ _ _) fun u => ?_
  refine Keeps.ite (fun _ => hR.bind (putUba_kept _ _) fun _ => hR.pure _) fun _ => ?_
  refine Keeps.ite (fun _ => ?_) fun _ => hR.bind (putUba_kept _ _) fun _ => hR.pure _
  refine hR.bind (putUba_kept _ _) fun _ => hR.bind (emit_kept _) fun _ => Keeps.ite (fun _ => hR.raise _) fun _ => ?_
  exact hR.bind (draw_kept 16) fun _ => hR.pure _

theorem mbaRead_kept (n : Nat) (c : Config.Mba) (m : MbaState) (pa off : Nat) (mask : BitVec 4) :
    Keeps (Kept true wr regs) (mbaRead n c m pa off mask) := by
  have hR := Kept.chain true wr regs
  unfold mbaRead
  repeat' first
    | with_reducible refine Keeps.ite (fun _ => ?_) fun _ => ?_
    | exact hR.raise _
    | exact hR.pure _
    | exact draw_kept _
    | exact hR.bind (draw_kept _) fun _ => hR.pure _
    | exact hR.bind (putMba_kept _ _) fun _ => hR.pure _
    | exact hR.bind (emit_kept _) fun _ => hR.bind (draw_kept 16) fun _ => hR.pure _

theorem driveWrite_kept (n : Nat) (c : Config.Mba) (m : MbaState) (unit reg : Nat) (v : BitVec 16) :
    Keeps (Kept true wr regs) (driveWrite n c m unit reg v) := by
  have hR := Kept.chain true wr regs
  unfold driveWrite
  cases mbaDrive c unit reg with
  | none => exact putMba_kept _ _
  | some d =>
    dsimp only
    cases driveCommand d reg v with
    | none => exact emit_kept _
    | some k => exact Keeps.ite (fun _ => putMba_kept _ _) fun _ => hR.bind (putMba_kept _ _) fun _ => emit_kept _

theorem mbaWrite_kept (n : Nat) (c : Config.Mba) (m : MbaState) (pa off : Nat) (mask : BitVec 4) (v : Word) :
    Keeps (Kept true true regs) (mbaWrite n c m pa off mask v) := by
  have hR := Kept.chain true true regs
  unfold mbaWrite writeCr
  repeat' first
    | with_reducible refine Keeps.ite (fun _ => ?_) fun _ => ?_
    | exact hR.raise _
    | exact putMba_kept _ _
    | exact driveWrite_kept _ _ _ _ _ _
    | exact hR.bind (putMba_kept _ _) fun _ => emit_kept _

theorem ioReadLong_kept (pa : Nat) (mask : BitVec 4) (ilk : Bool) :
    Keeps (Kept true wr regs) (ioReadLong pa mask ilk) := by
  have hR := Kept.chain true wr regs
  refine hR.bind hR.get fun s => ?_
  cases s.responder pa with
  | none => exact hR.raise _
  | some r =>
    obtain ⟨r, off⟩ := r
    cases r with
    | memCtl _ c m => exact memCtlRead_kept _ _ _ _ _ _
    | ubaReg n c u => exact ubaRegRead_kept _ _ _ _ _
    | mba n c m => exact mbaRead_kept _ _ _ _ _ _
    | unibus n c u => exact unibusRead_kept _ _ _ _ _ _ _

theorem ioWriteLong_kept (pa : Nat) (mask : BitVec 4) (ilk : Bool) (v : Word) :
    Keeps (Kept true true regs) (ioWriteLong pa mask ilk v) := by
  have hR := Kept.chain true true regs
  refine hR.bind hR.get fun s => ?_
  cases s.responder pa with
  | none => exact hR.raise _
  | some r =>
    obtain ⟨r, off⟩ := r
    cases r with
    | memCtl _ c m => exact memCtlWrite_kept _ _ _ _ _ _
    | ubaReg n c u => exact ubaRegWrite_kept _ _ _ _ _ _
    | mba n c m => exact mbaWrite_kept _ _ _ _ _ _ _
    | unibus n c u => exact unibusWrite_kept _ _ _ _ _ _ _

theorem loadGroups_kept (ilk : Bool) (gs : List (List Nat)) : Keeps (Kept true wr regs) (loadGroups ilk gs) := by
  have hR := Kept.chain true wr regs
  induction gs with
  | nil => exact hR.pure _
  | cons g t ih =>
    refine Keeps.ite (fun _ => hR.bind (cpuLoad_kept _) fun _ => hR.bind ih fun _ => hR.pure _) fun _ => ?_
    exact hR.bind (ioReadLong_kept _ _ _) fun _ => hR.bind (hR.pure _) fun _ => hR.bind ih fun _ => hR.pure _

theorem storeGroups_kept (ilk : Bool) (gs : List (List Nat)) (v : Nat) :
    Keeps (Kept true true regs) (storeGroups ilk gs v) := by
  have hR := Kept.chain true true regs
  induction gs generalizing v with
  | nil => exact hR.pure _
  | cons g t ih =>
    refine Keeps.ite (fun _ => hR.bind (programStore_kept _ _) fun _ => ih _) fun _ => ?_
    exact hR.bind (ioWriteLong_kept _ _ _ _) fun _ => ih _

/-! ### Physical references -/

theorem physLoad_kept (io ilk : Bool) (pas : List Nat) : Keeps (Kept io wr regs) (physLoad io ilk pas) := by
  have hR := Kept.chain io wr regs
  refine Keeps.ite (fun _ => Keeps.ite (fun h => ?_) fun _ => hR.raise _) fun _ => cpuLoad_kept _
  rw [h]
  exact loadGroups_kept _ _

theorem physStore_kept (io ilk : Bool) (pas : List Nat) (v : Nat) :
    Keeps (Kept io true regs) (physStore io ilk pas v) := by
  have hR := Kept.chain io true regs
  refine Keeps.ite (fun _ => Keeps.ite (fun h => ?_) fun _ => hR.raise _) fun _ =>
    hR.bind (needMemory_kept _) fun _ => programStore_kept _ _
  rw [h]
  exact (Kept.chain true true regs).bind (needMemory_kept _) fun _ => storeGroups_kept _ _ _

end Sys2Proof.Machine
end

