-- ==== Sys2Proof/Laws/FrameMap.lean ====
section
/-! SUPPORT. What translating addresses leaves unchanged. -/
namespace Sys2Proof.Machine
open Sys2Proof

variable {io wr : Bool} {regs : List Reg}

/-- A reference in I/O space or not: what keeps more keeps this. -/
theorem Keeps.inAny {α : Type} {m : M α} (h : Keeps (Kept false wr regs) m) : Keeps (Kept io wr regs) m :=
  h.mono fun _ _ k => k.weaken (fun e => Bool.noConfusion e) id fun _ => id

/-- Reading a longword of a table changes a device at most where it may lie in I/O space. -/
theorem physReadLong_kept (pa : Nat) : Keeps (Kept io wr regs) (physReadLong io pa) := by
  have hR := Kept.chain io wr regs
  refine Keeps.ite (fun _ => hR.map _ (cpuLoad_kept _)) fun _ => Keeps.ite (fun h => ?_) fun _ => ?_
  · rw [h]
    exact ioReadLong_kept _ _ _
  · exact hR.bind hR.get fun s => Keeps.ite (fun _ => hR.raise _) fun _ => hR.raise _

/-! ### Translation -/

theorem State.tbFill_kept (s : State) (e : TbEntry) : Kept io wr regs s (s.tbFill e) := by
  unfold State.tbFill
  split
  · exact Kept.refl _ _ _ s
  · exact kept_tb s _ fun f hf => ⟨f, List.mem_cons_of_mem _ hf, rfl, rfl, rfl⟩

/-- A PTE cached is in the buffer. -/
theorem State.mem_tbFill (s : State) (e : TbEntry) : e ∈ (s.tbFill e).tb := by
  unfold State.tbFill
  split
  · next h => exact List.contains_iff_mem.1 h
  · exact List.mem_cons_self ..

theorem tbFill_kept (e : TbEntry) : Keeps (Kept io wr regs) (modify fun s => s.tbFill e) :=
  Keeps.modify fun s => s.tbFill_kept e

theorem pickEntry_kept (l : List TbEntry) : Keeps (Kept io wr regs) (pickEntry l) := by
  have hR := Kept.chain io wr regs
  induction l with
  | nil => exact hR.pure _
  | cons e t ih => exact hR.bind drawBit_kept fun _ => Keeps.ite (fun _ => hR.pure _) fun _ => ih

theorem tbOr_kept {α : Type} (va : Word) (hit : TbEntry → α) {miss : M α} (h : Keeps (Kept io wr regs) miss) :
    Keeps (Kept io wr regs) (tbOr va hit miss) := by
  have hR := Kept.chain io wr regs
  refine hR.bind hR.get fun s => hR.bind (pickEntry_kept _) fun old => ?_
  cases old with
  | some e => exact hR.pure _
  | none =>
    dsimp only
    split
    · exact hR.pure _
    · exact h

theorem fetchSystemPte_kept (va : Word) : Keeps (Kept io wr regs) (fetchSystemPte io va) :=
  (Kept.chain io wr regs).bind (Kept.chain io wr regs).get fun _ =>
    (Kept.chain io wr regs).bind (physReadLong_kept _) fun _ => (Kept.chain io wr regs).pure _

theorem fetchProcessPte_kept (va : Word) (spte : TbEntry) : Keeps (Kept io wr regs) (fetchProcessPte io va spte) :=
  (Kept.chain io wr regs).bind (Kept.chain io wr regs).get fun _ =>
    (Kept.chain io wr regs).bind (physReadLong_kept _) fun _ => (Kept.chain io wr regs).pure _

theorem checkAccess_kept (pte : Word) (mode : Mode) (write : Bool) :
    Keeps (Kept io wr regs) (checkAccess pte mode write) :=
  Keeps.ite (fun _ => drawBit_kept) fun _ => (Kept.chain io wr regs).pure _

theorem pageTablePte_kept (va : Word) (write : Bool) : Keeps (Kept io wr regs) (pageTablePte io va write) := by
  have hR := Kept.chain io wr regs
  refine hR.bind hR.get fun s => Keeps.ite (fun _ => hR.raise _) fun _ => ?_
  refine hR.bind (tbOr_kept _ _ (fetchSystemPte_kept _)) fun spte => hR.bind (checkAccess_kept _ _ _) fun ok => ?_
  refine Keeps.ite (fun _ => hR.raise _) fun _ => Keeps.ite (fun _ => hR.raise _) fun _ => ?_
  exact hR.bind (tbFill_kept _) fun _ => hR.pure _

theorem fetchPte_kept (va : Word) (write : Bool) : Keeps (Kept io wr regs) (fetchPte io va write) := by
  have hR := Kept.chain io wr regs
  refine tbOr_kept _ _ (Keeps.ite (fun _ => fetchSystemPte_kept _) fun _ => ?_)
  exact hR.bind (pageTablePte_kept _ _) fun _ => fetchProcessPte_kept _ _

theorem checkedPte_kept (va : Word) (write : Bool) (mode : Mode) :
    Keeps (Kept io wr regs) (checkedPte io va write mode) := by
  have hR := Kept.chain io wr regs
  refine hR.bind hR.get fun s => Keeps.ite (fun _ => hR.raise _) fun _ => ?_
  refine hR.bind (fetchPte_kept _ _) fun pte => hR.bind (checkAccess_kept _ _ _) fun ok => ?_
  refine Keeps.ite (fun _ => hR.raise _) fun _ => ?_
  exact Keeps.ite (fun _ => hR.raise _) fun _ => hR.bind (tbFill_kept _) fun _ => hR.pure _

/-- Where the PTE may not be read in I/O space, it is never written there: the read does not come back. -/
theorem physReadLong_mem {pa : Nat} {s t : State} {v : Word} (h : physReadLong false pa s = .ok v t) : pa < ioBase := by
  unfold physReadLong at h
  split at h
  · assumption
  · obtain ⟨_, u, _, h2⟩ := bind_ok h
    split at h2 <;> cases h2

theorem setPteModify_kept (pa : Nat) : Keeps (Kept io true regs) (setPteModify io pa) := by
  have hR := Kept.chain io true regs
  cases io with
  | true =>
    refine hR.bind (physReadLong_kept _) fun _ => ?_
    exact Keeps.ite (fun _ => cpuStore_kept _ _) fun _ => ioWriteLong_kept _ _ _ _
  | false =>
    by_cases hp : pa < ioBase
    · refine hR.bind (physReadLong_kept _) fun _ => ?_
      exact Keeps.ite (fun _ => cpuStore_kept _ _) fun h => absurd hp h
    · intro s
      have hk := physReadLong_kept (io := false) (wr := true) (regs := regs) pa s
      cases hm : physReadLong false pa s with
      | ok v t => exact absurd (physReadLong_mem hm) hp
      | error e t =>
        rw [hm] at hk
        simpa [setPteModify, bind, EStateM.bind, hm] using hk

/-- Setting the modify bit of cached PTEs keeps what each stands for. -/
theorem kept_tbModify (s : State) (a : Nat) : Kept io wr regs s
    { s with tb := s.tb.map fun e => if e.at_ = a then { e with pte := setBit e.pte 26 true } else e } := by
  refine kept_tb s _ fun e he => ⟨_, List.mem_map_of_mem he, ?_⟩
  split <;> exact ⟨rfl, rfl, rfl⟩

theorem setModifyAt_kept (a : Nat) : Keeps (Kept io true regs) (setModifyAt io a) :=
  (Kept.chain io true regs).bind (setPteModify_kept a) fun _ => Keeps.modify fun s => kept_tbModify s a

theorem setModify_kept (e : TbEntry) : Keeps (Kept io true regs) (setModify io e) := by
  have hR := Kept.chain io true regs
  refine Keeps.ite (fun _ => hR.pure _) fun _ => hR.bind (tbFill_kept _) fun _ => ?_
  refine hR.bind (setModifyAt_kept _) fun _ => ?_
  cases e.sys with
  | none => exact hR.pure _
  | some a => exact hR.bind drawBit_kept fun _ => Keeps.ite (fun _ => setModifyAt_kept a) fun _ => hR.pure _

theorem setModify_of {write : Bool} (h : write = true) (hw : write = true → wr = true) (e : TbEntry) :
    Keeps (Kept io wr regs) (setModify io e) := by
  rw [hw h]
  exact setModify_kept e

theorem translate_kept {write : Bool} (hw : write = true → wr = true) (va : Word) (mode : Mode) :
    Keeps (Kept io wr regs) (translate io va write mode) := by
  have hR := Kept.chain io wr regs
  refine hR.bind hR.get fun s => Keeps.ite (fun _ => hR.pure _) fun _ => hR.bind (checkedPte_kept _ _ _) fun pte => ?_
  exact Keeps.ite (fun h => hR.bind (setModify_of h hw _) fun _ => hR.pure _) fun _ => hR.pure _

theorem maybeModify_kept (va : Word) (mode : Mode) : Keeps (Kept io true regs) (maybeModify io va mode) := by
  have hR := Kept.chain io true regs
  refine hR.bind drawBit_kept fun b => Keeps.ite (fun _ => ?_) fun _ => hR.pure _
  exact hR.tryCatch (hR.bind (checkedPte_kept _ _ _) fun _ => setModify_kept _) fun _ => hR.pure _

theorem maybeModify_of {write : Bool} (h : write = true) (hw : write = true → wr = true) (va : Word) (mode : Mode) :
    Keeps (Kept io wr regs) (maybeModify io va mode) := by
  rw [hw h]
  exact maybeModify_kept va mode

theorem checkedTwo_kept {write : Bool} (hw : write = true → wr = true) (va va2 : Word) (mode : Mode) :
    Keeps (Kept io wr regs) (checkedTwo io va va2 write mode) := by
  have hR := Kept.chain io wr regs
  refine hR.bind (hR.tryCatch (checkedPte_kept _ _ _) fun _ =>
    Keeps.ite (fun h => hR.bind (maybeModify_of h hw _ _) fun _ => hR.raise _) fun _ => hR.raise _) fun p1 => ?_
  refine hR.bind (hR.tryCatch (checkedPte_kept _ _ _) fun _ =>
    Keeps.ite (fun h => hR.bind (maybeModify_of h hw _ _) fun _ => hR.raise _) fun _ => hR.raise _) fun p2 => ?_
  exact hR.pure _

theorem translateTwo_kept {write : Bool} (hw : write = true → wr = true) (va va2 : Word) (mode : Mode) :
    Keeps (Kept io wr regs) (translateTwo io va va2 write mode) := by
  have hR := Kept.chain io wr regs
  refine hR.bind (checkedTwo_kept hw _ _ _) fun p => ?_
  exact Keeps.ite (fun h => hR.bind (setModify_of h hw _) fun _ => hR.bind (setModify_of h hw _) fun _ => hR.pure _)
    fun _ => hR.pure _

theorem translateRange_kept {write : Bool} (hw : write = true → wr = true) (va : Word) (n : Nat) (mode : Mode) :
    Keeps (Kept io wr regs) (translateRange io va n write mode) := by
  have hR := Kept.chain io wr regs
  refine hR.bind hR.get fun s => Keeps.ite (fun _ => hR.pure _) fun _ => Keeps.ite (fun _ => ?_) fun _ => ?_
  · exact hR.bind (translate_kept hw _ _) fun _ => hR.pure _
  · exact hR.bind (translateTwo_kept hw _ _ _) fun _ => hR.pure _

theorem optionalModify_kept (e : TbEntry) : Keeps (Kept io true regs) (optionalModify io e) := by
  have hR := Kept.chain io true regs
  refine Keeps.ite (fun _ => hR.pure _) fun _ => hR.bind drawBit_kept fun b => ?_
  exact Keeps.ite (fun _ => setModify_kept _) fun _ => hR.pure _

theorem probeRange_kept (va : Word) (n : Nat) (mode : Mode) : Keeps (Kept io true regs) (probeRange io va n mode) := by
  have hR := Kept.chain io true regs
  refine hR.bind hR.get fun s => Keeps.ite (fun _ => hR.pure _) fun _ => ?_
  refine Keeps.ite (fun _ => ?_) fun _ => ?_
  · exact hR.bind (checkedPte_kept _ _ _) fun p1 => hR.bind (optionalModify_kept _) fun _ => hR.pure _
  · refine hR.bind (checkedTwo_kept (fun _ => rfl) _ _ _) fun p => hR.bind (optionalModify_kept _) fun _ => ?_
    exact hR.bind (optionalModify_kept _) fun _ => hR.pure _

end Sys2Proof.Machine
end

