-- ==== Sys2Proof/Laws/FrameOps.lean ====
section
/-! SUPPORT. What evaluating, reading and writing operands, and the stack, leave unchanged. -/
namespace Sys2Proof.Machine
open Sys2Proof

variable {io wr : Bool} {regs : List Reg}

theorem getReg_kept (n : Reg) : Keeps (Kept io wr regs) (getReg n) := fun s => Kept.refl _ _ _ s
theorem getPsl_kept : Keeps (Kept io wr regs) getPsl := fun s => Kept.refl _ _ _ s
theorem getIpr_kept : Keeps (Kept io wr regs) getIpr := fun s => Kept.refl _ _ _ s
theorem getCC_kept : Keeps (Kept io wr regs) getCC := fun s => Kept.refl _ _ _ s

theorem kept_reg (s : State) {n : Reg} (v : Word) (h : n ∈ regs) : Kept io wr regs s (s.setReg n v) :=
  ⟨rfl, rfl, rfl, rfl, rfl, rfl, rfl, fun m hm => by
    have ne : m ≠ n := by
      rintro rfl
      exact hm h
    exact State.reg_setReg_ne s ne v, fun _ => rfl, fun _ => ⟨rfl, rfl⟩, fun _ => ⟨rfl, rfl⟩, rfl, log_refl s,
    tb_refl s, id, errs_refl s, fun _ => ⟨rfl, fun _ => rfl⟩⟩

theorem putReg_kept {n : Reg} (v : Word) (h : n ∈ regs) : Keeps (Kept io wr regs) (putReg n v) :=
  Keeps.modify fun s => kept_reg s v h

theorem advancePc_kept (n : Nat) (h : rPC ∈ regs) : Keeps (Kept io wr regs) (advancePc n) :=
  Keeps.modify fun s => kept_reg s _ h

/-! ### Virtual memory -/

theorem loadVirtIn_kept (mode : Mode) (io ilk : Bool) {intent : Bool} (hw : intent = true → wr = true) (va : Word)
    (n : Nat) : Keeps (Kept io wr regs) (loadVirtIn mode io ilk intent va n) :=
  (Kept.chain io wr regs).bind (translateRange_kept hw _ _ _) fun _ => physLoad_kept _ _ _

theorem storeVirtIn_kept (mode : Mode) (io ilk : Bool) (va : Word) (n v : Nat) :
    Keeps (Kept io true regs) (storeVirtIn mode io ilk va n v) :=
  (Kept.chain io true regs).bind (translateRange_kept (fun _ => rfl) _ _ _) fun _ => physStore_kept _ _ _ _

theorem probeWriteIn_kept (mode : Mode) (tables io : Bool) (va : Word) (n : Nat) :
    Keeps (Kept tables true regs) (probeWriteIn mode tables io va n) := by
  have hR := Kept.chain tables true regs
  refine hR.bind (probeRange_kept _ _ _) fun pas => ?_
  exact Keeps.ite (fun _ => Keeps.ite (fun _ => hR.pure _) fun _ => hR.raise _) fun _ => needMemory_kept _

theorem probeWrite_kept (io : Bool) (va : Word) (n : Nat) : Keeps (Kept io true regs) (probeWrite io va n) :=
  (Kept.chain io true regs).bind (Kept.chain io true regs).get fun _ => probeWriteIn_kept _ _ _ _ _

/-- What a probe examines is found with no effect but free values drawn. -/
theorem probePte_kept (va : Word) (write : Bool) : Keeps (Kept io wr regs) (probePte io va write) := by
  have hR := Kept.chain io wr regs
  refine tbOr_kept _ _ (hR.bind hR.get fun _ => Keeps.ite (fun _ => hR.map _ (fetchSystemPte_kept _)) fun _ => ?_)
  refine Keeps.ite (fun _ => hR.pure _) fun _ => hR.bind (tbOr_kept _ _ (fetchSystemPte_kept _)) fun _ => ?_
  refine hR.bind (checkAccess_kept _ _ _) fun _ => Keeps.ite (fun _ => hR.pure _) fun _ => ?_
  exact Keeps.ite (fun _ => hR.raise _) fun _ => hR.map _ (fetchProcessPte_kept _ _)

/-- A probe changes memory by a modify bit at most. -/
theorem probe_kept (va : Word) (write : Bool) (mode : Mode) : Keeps (Kept io true regs) (probe io va write mode) := by
  have hR := Kept.chain io true regs
  refine hR.bind hR.get fun _ => Keeps.ite (fun _ => hR.pure _) fun _ => Keeps.ite (fun _ => hR.pure _) fun _ => ?_
  refine hR.bind (probePte_kept _ _) fun p => ?_
  cases p with
  | none => exact hR.pure _
  | some e =>
    refine hR.bind (checkAccess_kept _ _ _) fun _ => ?_
    exact Keeps.ite (fun _ => hR.bind (optionalModify_kept _) fun _ => hR.pure _) fun _ => hR.pure _

/-- The checks of a frame's pushes change memory by modify bits at most. -/
theorem checkPushesIn_kept (mode : Mode) (n : Nat) (sp : Word) :
    Keeps (Kept io true regs) (checkPushesIn mode io n sp) := by
  induction n generalizing sp with
  | zero => exact (Kept.chain io true regs).pure _
  | succ n ih =>
    exact (Kept.chain io true regs).bind (probeWriteIn_kept _ _ false _ _) fun _ => ih _

theorem checkPushes_kept (n : Nat) (sp : Word) : Keeps (Kept io true regs) (checkPushes n sp) :=
  Keeps.inAny ((Kept.chain false true regs).bind (Kept.chain false true regs).get fun _ => checkPushesIn_kept _ _ _)

theorem memReadN_kept (va : Word) (n : Nat) : Keeps (Kept io wr regs) (memReadN va n) :=
  Keeps.inAny ((Kept.chain false wr regs).bind (Kept.chain false wr regs).get fun _ =>
    loadVirtIn_kept _ false false (fun e => Bool.noConfusion e) _ _)

theorem memWriteN_kept (va : Word) (n v : Nat) : Keeps (Kept io true regs) (memWriteN va n v) :=
  Keeps.inAny ((Kept.chain false true regs).bind (Kept.chain false true regs).get fun _ => storeVirtIn_kept _ false _ _ _ _)

theorem memReadLong_kept (va : Word) : Keeps (Kept io wr regs) (memReadLong va) :=
  (Kept.chain io wr regs).map _ (memReadN_kept _ _)

theorem memReadByte_kept (va : Word) : Keeps (Kept io wr regs) (memReadByte va) :=
  (Kept.chain io wr regs).map _ (memReadN_kept _ _)

theorem memWriteLong_kept (va v : Word) : Keeps (Kept io true regs) (memWriteLong va v) := memWriteN_kept _ _ _

theorem memWriteByte_kept (va : Word) (v : Byte) : Keeps (Kept io true regs) (memWriteByte va v) := memWriteN_kept _ _ _

theorem pushIn_kept (mode : Mode) (v : Word) (h : rSP ∈ regs) : Keeps (Kept io true regs) (pushIn mode io v) := by
  have hR := Kept.chain io true regs
  refine hR.bind (getReg_kept _) fun sp => hR.bind (translateRange_kept (fun _ => rfl) _ _ _) fun _ => ?_
  exact hR.bind (Keeps.inAny (physStore_kept false _ _ _)) fun _ => putReg_kept _ h

theorem pushAllIn_kept (mode : Mode) (vs : List Word) (h : rSP ∈ regs) :
    Keeps (Kept io true regs) (pushAllIn mode io vs) := by
  induction vs with
  | nil => exact (Kept.chain io true regs).pure _
  | cons v t ih => exact (Kept.chain io true regs).bind (pushIn_kept _ _ h) fun _ => ih

theorem push_kept (v : Word) (h : rSP ∈ regs) : Keeps (Kept io true regs) (push v) :=
  Keeps.inAny ((Kept.chain false true regs).bind (Kept.chain false true regs).get fun _ => pushIn_kept _ _ h)

theorem pushMapped_kept (v : Word) (h : rSP ∈ regs) : Keeps (Kept true true regs) (pushMapped v) :=
  (Kept.chain true true regs).bind (Kept.chain true true regs).get fun _ => pushIn_kept _ _ h

theorem pop_kept (h : rSP ∈ regs) : Keeps (Kept io wr regs) pop := by
  have hR := Kept.chain io wr regs
  refine hR.bind (getReg_kept _) fun sp => hR.bind (memReadLong_kept _) fun v => ?_
  exact hR.bind (putReg_kept _ h) fun _ => hR.pure _

/-! ### Operands -/

theorem readPointer_kept (io : Bool) (va : Word) : Keeps (Kept io wr regs) (readPointer io va) :=
  (Kept.chain io wr regs).bind (Kept.chain io wr regs).get fun _ =>
    (Kept.chain io wr regs).map _ (loadVirtIn_kept _ _ _ (fun e => Bool.noConfusion e) _ _)

theorem evalBase_kept (size : Nat) (io : Bool) (b : BaseSpec) (h : ∀ n ∈ b.stepped, n ∈ regs) :
    Keeps (Kept io wr regs) (evalBase size io b) := by
  have hR := Kept.chain io wr regs
  cases b <;> unfold evalBase
  case regDef n => exact Keeps.ite (fun _ => hR.raise _) fun _ => getReg_kept _
  case autoDec n =>
    refine Keeps.ite (fun _ => hR.raise _) fun _ => hR.bind (getReg_kept _) fun r => ?_
    exact hR.bind (putReg_kept _ (h n (List.mem_singleton.2 rfl))) fun _ => hR.pure _
  case autoInc n =>
    refine Keeps.ite (fun _ => hR.raise _) fun _ => hR.bind (getReg_kept _) fun r => ?_
    exact hR.bind (putReg_kept _ (h n (List.mem_singleton.2 rfl))) fun _ => hR.pure _
  case imm v => exact hR.bind (getReg_kept _) fun _ => hR.pure _
  case autoIncDef n =>
    refine Keeps.ite (fun _ => hR.raise _) fun _ => hR.bind (getReg_kept _) fun r => ?_
    exact hR.bind (putReg_kept _ (h n (List.mem_singleton.2 rfl))) fun _ => readPointer_kept _ _
  case abs a => exact hR.pure _
  all_goals refine hR.bind (getReg_kept _) fun _ => ?_
  all_goals first | exact hR.pure _ | exact readPointer_kept _ _

theorem checkSp_kept (size : Nat) (b : BaseSpec) : Keeps (Kept io wr regs) (checkSp size b) :=
  (Kept.chain io wr regs).bind (Kept.chain io wr regs).get fun _ =>
    Keeps.ite (fun _ => (Kept.chain io wr regs).raise _) fun _ => (Kept.chain io wr regs).pure _

theorem locate_kept (acc : Access) (ty : DType) (io : Bool) (sp : Spec) (hpc : rPC ∈ regs)
    (h : ∀ n ∈ sp.stepped, n ∈ regs) : Keeps (Kept io wr regs) (locate acc ty io sp) := by
  have hR := Kept.chain io wr regs
  refine hR.bind (advancePc_kept _ hpc) fun _ => ?_
  cases sp with
  | lit v => exact Keeps.ite (fun _ => hR.pure _) fun _ => hR.raise _
  | reg n => exact Keeps.ite (fun _ => hR.raise _) fun _ => Keeps.ite (fun _ => hR.raise _) fun _ => hR.pure _
  | base b =>
    have hb : ∀ io', io' = io → Keeps (Kept io wr regs) (Loc.mem <$> evalBase ty.size io' b) := by
      rintro _ rfl
      exact hR.map _ (evalBase_kept _ _ _ h)
    cases b
    case imm v =>
      exact Keeps.ite (fun _ => hR.raise _) fun _ => Keeps.ite (fun _ => hR.pure _) fun _ => hb _ rfl
    all_goals exact hR.bind (checkSp_kept _ _) fun _ => hb _ rfl
  | index x b =>
    refine Keeps.ite (fun _ => hR.raise _) fun _ => Keeps.ite (fun _ => hR.raise _) fun _ => ?_
    refine hR.bind (checkSp_kept _ _) fun _ => ?_
    exact hR.bind (evalBase_kept _ _ _ h) fun _ => hR.bind (getReg_kept _) fun _ => hR.pure _
  | indexBad x b => exact hR.raise _

theorem loadLoc_kept (w : Nat) (io ilk : Bool) {intent : Bool} (l : Loc) (hw : intent = true → l.writes = true → wr = true) :
    Keeps (Kept io wr regs) (loadLoc w io ilk intent l) := by
  have hR := Kept.chain io wr regs
  cases l with
  | const v => exact hR.pure _
  | reg n => exact fun s => Kept.refl _ _ _ s
  | mem ea => exact hR.bind hR.get fun _ => hR.map _ (loadVirtIn_kept _ _ _ (fun e => hw e rfl) _ _)

theorem kept_regValue (s : State) {w : Nat} {n : Reg} (v : BitVec w) (h : ∀ m ∈ (Loc.reg n).regs w, m ∈ regs) :
    Kept io wr regs s (s.setRegValue n v) := by
  unfold State.setRegValue
  simp only [Loc.regs] at h
  by_cases hw : w ≤ 32
  · rw [if_pos hw] at h ⊢
    exact kept_reg s _ (h n (List.mem_singleton.2 rfl))
  · rw [if_neg hw] at h ⊢
    exact Kept.trans (kept_reg s _ (h n (List.mem_cons_self ..))) (kept_reg _ _ (h (n + 1) (by simp)))

theorem storeLoc_kept {w : Nat} (io ilk : Bool) (l : Loc) (v : BitVec w) (hw : l.writes = true → wr = true)
    (h : ∀ m ∈ l.regs w, m ∈ regs) : Keeps (Kept io wr regs) (storeLoc io ilk l v) := by
  have hR := Kept.chain io wr regs
  cases l with
  | const v => exact hR.raise _
  | reg n => exact Keeps.modify fun s => kept_regValue s v h
  | mem ea =>
    rw [hw rfl]
    exact (Kept.chain io true regs).bind (Kept.chain io true regs).get fun _ => storeVirtIn_kept _ _ _ _ _ _

theorem checkStore_kept (io : Bool) (w : Nat) (l : Loc) (hw : l.writes = true → wr = true) :
    Keeps (Kept io wr regs) (checkStore io w l) := by
  have hR := Kept.chain io wr regs
  cases l with
  | const v => exact hR.pure _
  | reg n => exact hR.pure _
  | mem ea =>
    rw [hw rfl]
    exact probeWrite_kept _ _ _

theorem awaitInterlock_kept : Keeps (Kept io wr regs) awaitInterlock :=
  (Kept.chain io wr regs).bind (Kept.chain io wr regs).get fun _ =>
    Keeps.ite (fun _ => (Kept.chain io wr regs).raise _) fun _ => (Kept.chain io wr regs).pure _

theorem readInt_kept (w : Nat) (io : Bool) (sp : Spec) (hpc : rPC ∈ regs) (h : ∀ n ∈ sp.stepped, n ∈ regs) :
    Keeps (Kept io wr regs) (readInt w io sp) :=
  (Kept.chain io wr regs).bind (locate_kept _ _ _ _ hpc h) fun _ => loadLoc_kept _ _ _ _ fun e => Bool.noConfusion e

theorem readOp_kept (w : Nat) (sp : Spec) (hpc : rPC ∈ regs) (h : ∀ n ∈ sp.stepped, n ∈ regs) :
    Keeps (Kept io wr regs) (readOp w sp io) := readInt_kept _ _ _ hpc h

theorem writeOp_kept (w : Nat) (sp : Spec) (hpc : rPC ∈ regs) (h : ∀ n ∈ sp.stepped, n ∈ regs) :
    Keeps (Kept io wr regs) (writeOp w sp io) := locate_kept _ _ _ _ hpc h

/-- The interlocked read of ADAWI's word: no register changes, memory only by modify bits. -/
theorem loadInterlocked_kept (ea : Word) : Keeps (Kept true true regs) (loadInterlocked ea) := by
  have hR := Kept.chain true true regs
  refine hR.bind hR.get fun _ => hR.bind (translateRange_kept (fun _ => rfl) _ _ _) fun _ => ?_
  exact Keeps.ite (fun _ => hR.raise _) fun _ => hR.map _ (physLoad_kept _ _ _)

theorem addressOp_kept (ty : DType) (io : Bool) (sp : Spec) (hpc : rPC ∈ regs) (h : ∀ n ∈ sp.stepped, n ∈ regs) :
    Keeps (Kept io wr regs) (addressOp ty io sp) := by
  have hR := Kept.chain io wr regs
  refine hR.bind (locate_kept _ _ _ _ hpc h) fun l => ?_
  cases l with
  | mem ea => exact hR.pure _
  | _ => exact hR.raise _

end Sys2Proof.Machine
end

