-- ==== Sys2Proof/Laws/PerInstr.lean ====
section
/-! SUPPORT. One lemma per instruction: the opcode map's row of its opcode builds it back from its operands. -/
namespace Sys2Proof.Laws.Encoding
open Sys2Proof

/-- The row of an instruction's opcode gives the instruction back from its operands, and it has as many kinds as the
instruction has operands. -/
def Statement (i : Instr) : Prop :=
  (opRow i.opcode).build i.operands = some i ∧ i.sig.length = i.operands.length

/-- The statement from the opcode, the operands and the row written out. -/
theorem of_row {i : Instr} (op : Byte) (os : List Operand) (h1 : i.opcode = op) (h2 : i.operands = os)
    (h3 : (opRow op).build os = some i) (h4 : (opRow op).sig.length = os.length) : Statement i := by
  subst h1 h2
  exact ⟨h3, h4⟩

theorem cvtps (srclen : Spec) (srcaddr : Spec) (dstlen : Spec) (dstaddr : Spec) : Statement (.cvtps srclen srcaddr dstlen dstaddr) :=
  of_row 0x08 [.spec srclen, .spec srcaddr, .spec dstlen, .spec dstaddr] rfl rfl rfl rfl
theorem cvtsp (srclen : Spec) (srcaddr : Spec) (dstlen : Spec) (dstaddr : Spec) : Statement (.cvtsp srclen srcaddr dstlen dstaddr) :=
  of_row 0x09 [.spec srclen, .spec srcaddr, .spec dstlen, .spec dstaddr] rfl rfl rfl rfl
theorem index (subscript : Spec) (low : Spec) (high : Spec) (size : Spec) (indexin : Spec) (indexout : Spec) : Statement (.index subscript low high size indexin indexout) :=
  of_row 0x0A [.spec subscript, .spec low, .spec high, .spec size, .spec indexin, .spec indexout] rfl rfl rfl rfl
theorem crc (tbl : Spec) (inicrc : Spec) (strlen : Spec) (stream : Spec) : Statement (.crc tbl inicrc strlen stream) :=
  of_row 0x0B [.spec tbl, .spec inicrc, .spec strlen, .spec stream] rfl rfl rfl rfl
theorem prober (mode : Spec) (len : Spec) (base : Spec) : Statement (.prober mode len base) :=
  of_row 0x0C [.spec mode, .spec len, .spec base] rfl rfl rfl rfl
theorem probew (mode : Spec) (len : Spec) (base : Spec) : Statement (.probew mode len base) :=
  of_row 0x0D [.spec mode, .spec len, .spec base] rfl rfl rfl rfl
theorem insque (entry : Spec) (pred : Spec) : Statement (.insque entry pred) :=
  of_row 0x0E [.spec entry, .spec pred] rfl rfl rfl rfl
theorem remque (entry : Spec) (addr : Spec) : Statement (.remque entry addr) :=
  of_row 0x0F [.spec entry, .spec addr] rfl rfl rfl rfl
theorem bsbb (displ : BitVec 8) : Statement (.bsbb displ) :=
  of_row 0x10 [.dispB displ] rfl rfl rfl rfl
theorem brb (displ : BitVec 8) : Statement (.brb displ) :=
  of_row 0x11 [.dispB displ] rfl rfl rfl rfl
theorem bneq (displ : BitVec 8) : Statement (.bneq displ) :=
  of_row 0x12 [.dispB displ] rfl rfl rfl rfl
theorem beql (displ : BitVec 8) : Statement (.beql displ) :=
  of_row 0x13 [.dispB displ] rfl rfl rfl rfl
theorem bgtr (displ : BitVec 8) : Statement (.bgtr displ) :=
  of_row 0x14 [.dispB displ] rfl rfl rfl rfl
theorem bleq (displ : BitVec 8) : Statement (.bleq displ) :=
  of_row 0x15 [.dispB displ] rfl rfl rfl rfl
theorem jsb (dst : Spec) : Statement (.jsb dst) :=
  of_row 0x16 [.spec dst] rfl rfl rfl rfl
theorem jmp (dst : Spec) : Statement (.jmp dst) :=
  of_row 0x17 [.spec dst] rfl rfl rfl rfl
theorem bgeq (displ : BitVec 8) : Statement (.bgeq displ) :=
  of_row 0x18 [.dispB displ] rfl rfl rfl rfl
theorem blss (displ : BitVec 8) : Statement (.blss displ) :=
  of_row 0x19 [.dispB displ] rfl rfl rfl rfl
theorem bgtru (displ : BitVec 8) : Statement (.bgtru displ) :=
  of_row 0x1A [.dispB displ] rfl rfl rfl rfl
theorem blequ (displ : BitVec 8) : Statement (.blequ displ) :=
  of_row 0x1B [.dispB displ] rfl rfl rfl rfl
theorem bvc (displ : BitVec 8) : Statement (.bvc displ) :=
  of_row 0x1C [.dispB displ] rfl rfl rfl rfl
theorem bvs (displ : BitVec 8) : Statement (.bvs displ) :=
  of_row 0x1D [.dispB displ] rfl rfl rfl rfl
theorem bcc (displ : BitVec 8) : Statement (.bcc displ) :=
  of_row 0x1E [.dispB displ] rfl rfl rfl rfl
theorem bcs (displ : BitVec 8) : Statement (.bcs displ) :=
  of_row 0x1F [.dispB displ] rfl rfl rfl rfl
theorem addp4 (addlen : Spec) (addaddr : Spec) (sumlen : Spec) (sumaddr : Spec) : Statement (.addp4 addlen addaddr sumlen sumaddr) :=
  of_row 0x20 [.spec addlen, .spec addaddr, .spec sumlen, .spec sumaddr] rfl rfl rfl rfl
theorem addp6 (add1len : Spec) (add1addr : Spec) (add2len : Spec) (add2addr : Spec) (sumlen : Spec) (sumaddr : Spec) : Statement (.addp6 add1len add1addr add2len add2addr sumlen sumaddr) :=
  of_row 0x21 [.spec add1len, .spec add1addr, .spec add2len, .spec add2addr, .spec sumlen, .spec sumaddr] rfl rfl rfl rfl
theorem subp4 (sublen : Spec) (subaddr : Spec) (diflen : Spec) (difaddr : Spec) : Statement (.subp4 sublen subaddr diflen difaddr) :=
  of_row 0x22 [.spec sublen, .spec subaddr, .spec diflen, .spec difaddr] rfl rfl rfl rfl
theorem subp6 (sublen : Spec) (subaddr : Spec) (minlen : Spec) (minaddr : Spec) (diflen : Spec) (difaddr : Spec) : Statement (.subp6 sublen subaddr minlen minaddr diflen difaddr) :=
  of_row 0x23 [.spec sublen, .spec subaddr, .spec minlen, .spec minaddr, .spec diflen, .spec difaddr] rfl rfl rfl rfl
theorem cvtpt (srclen : Spec) (srcaddr : Spec) (tbladdr : Spec) (dstlen : Spec) (dstaddr : Spec) : Statement (.cvtpt srclen srcaddr tbladdr dstlen dstaddr) :=
  of_row 0x24 [.spec srclen, .spec srcaddr, .spec tbladdr, .spec dstlen, .spec dstaddr] rfl rfl rfl rfl
theorem mulp (mulrlen : Spec) (mulraddr : Spec) (muldlen : Spec) (muldaddr : Spec) (prodlen : Spec) (prodaddr : Spec) : Statement (.mulp mulrlen mulraddr muldlen muldaddr prodlen prodaddr) :=
  of_row 0x25 [.spec mulrlen, .spec mulraddr, .spec muldlen, .spec muldaddr, .spec prodlen, .spec prodaddr] rfl rfl rfl rfl
theorem cvttp (srclen : Spec) (srcaddr : Spec) (tbladdr : Spec) (dstlen : Spec) (dstaddr : Spec) : Statement (.cvttp srclen srcaddr tbladdr dstlen dstaddr) :=
  of_row 0x26 [.spec srclen, .spec srcaddr, .spec tbladdr, .spec dstlen, .spec dstaddr] rfl rfl rfl rfl
theorem divp (divrlen : Spec) (divraddr : Spec) (divdlen : Spec) (divdaddr : Spec) (quolen : Spec) (quoaddr : Spec) : Statement (.divp divrlen divraddr divdlen divdaddr quolen quoaddr) :=
  of_row 0x27 [.spec divrlen, .spec divraddr, .spec divdlen, .spec divdaddr, .spec quolen, .spec quoaddr] rfl rfl rfl rfl
theorem movc3 (len : Spec) (srcaddr : Spec) (dstaddr : Spec) : Statement (.movc3 len srcaddr dstaddr) :=
  of_row 0x28 [.spec len, .spec srcaddr, .spec dstaddr] rfl rfl rfl rfl
theorem cmpc3 (len : Spec) (src1addr : Spec) (src2addr : Spec) : Statement (.cmpc3 len src1addr src2addr) :=
  of_row 0x29 [.spec len, .spec src1addr, .spec src2addr] rfl rfl rfl rfl
theorem scanc (len : Spec) (addr : Spec) (tbladdr : Spec) (mask : Spec) : Statement (.scanc len addr tbladdr mask) :=
  of_row 0x2A [.spec len, .spec addr, .spec tbladdr, .spec mask] rfl rfl rfl rfl
theorem spanc (len : Spec) (addr : Spec) (tbladdr : Spec) (mask : Spec) : Statement (.spanc len addr tbladdr mask) :=
  of_row 0x2B [.spec len, .spec addr, .spec tbladdr, .spec mask] rfl rfl rfl rfl
theorem movc5 (srclen : Spec) (srcaddr : Spec) (fill : Spec) (dstlen : Spec) (dstaddr : Spec) : Statement (.movc5 srclen srcaddr fill dstlen dstaddr) :=
  of_row 0x2C [.spec srclen, .spec srcaddr, .spec fill, .spec dstlen, .spec dstaddr] rfl rfl rfl rfl
theorem cmpc5 (src1len : Spec) (src1addr : Spec) (fill : Spec) (src2len : Spec) (src2addr : Spec) : Statement (.cmpc5 src1len src1addr fill src2len src2addr) :=
  of_row 0x2D [.spec src1len, .spec src1addr, .spec fill, .spec src2len, .spec src2addr] rfl rfl rfl rfl
theorem movtc (srclen : Spec) (srcaddr : Spec) (fill : Spec) (tbladdr : Spec) (dstlen : Spec) (dstaddr : Spec) : Statement (.movtc srclen srcaddr fill tbladdr dstlen dstaddr) :=
  of_row 0x2E [.spec srclen, .spec srcaddr, .spec fill, .spec tbladdr, .spec dstlen, .spec dstaddr] rfl rfl rfl rfl
theorem movtuc (srclen : Spec) (srcaddr : Spec) (esc : Spec) (tbladdr : Spec) (dstlen : Spec) (dstaddr : Spec) : Statement (.movtuc srclen srcaddr esc tbladdr dstlen dstaddr) :=
  of_row 0x2F [.spec srclen, .spec srcaddr, .spec esc, .spec tbladdr, .spec dstlen, .spec dstaddr] rfl rfl rfl rfl
theorem bsbw (displ : BitVec 16) : Statement (.bsbw displ) :=
  of_row 0x30 [.dispW displ] rfl rfl rfl rfl
theorem brw (displ : BitVec 16) : Statement (.brw displ) :=
  of_row 0x31 [.dispW displ] rfl rfl rfl rfl
theorem cvtwl (src : Spec) (dst : Spec) : Statement (.cvtwl src dst) :=
  of_row 0x32 [.spec src, .spec dst] rfl rfl rfl rfl
theorem cvtwb (src : Spec) (dst : Spec) : Statement (.cvtwb src dst) :=
  of_row 0x33 [.spec src, .spec dst] rfl rfl rfl rfl
theorem movp (len : Spec) (srcaddr : Spec) (dstaddr : Spec) : Statement (.movp len srcaddr dstaddr) :=
  of_row 0x34 [.spec len, .spec srcaddr, .spec dstaddr] rfl rfl rfl rfl
theorem cmpp3 (len : Spec) (src1addr : Spec) (src2addr : Spec) : Statement (.cmpp3 len src1addr src2addr) :=
  of_row 0x35 [.spec len, .spec src1addr, .spec src2addr] rfl rfl rfl rfl
theorem cvtpl (srclen : Spec) (srcaddr : Spec) (dst : Spec) : Statement (.cvtpl srclen srcaddr dst) :=
  of_row 0x36 [.spec srclen, .spec srcaddr, .spec dst] rfl rfl rfl rfl
theorem cmpp4 (src1len : Spec) (src1addr : Spec) (src2len : Spec) (src2addr : Spec) : Statement (.cmpp4 src1len src1addr src2len src2addr) :=
  of_row 0x37 [.spec src1len, .spec src1addr, .spec src2len, .spec src2addr] rfl rfl rfl rfl
theorem editpc (srclen : Spec) (srcaddr : Spec) (pattern : Spec) (dstaddr : Spec) : Statement (.editpc srclen srcaddr pattern dstaddr) :=
  of_row 0x38 [.spec srclen, .spec srcaddr, .spec pattern, .spec dstaddr] rfl rfl rfl rfl
theorem matchc (objlen : Spec) (objaddr : Spec) (srclen : Spec) (srcaddr : Spec) : Statement (.matchc objlen objaddr srclen srcaddr) :=
  of_row 0x39 [.spec objlen, .spec objaddr, .spec srclen, .spec srcaddr] rfl rfl rfl rfl
theorem locc (char : Spec) (len : Spec) (addr : Spec) : Statement (.locc char len addr) :=
  of_row 0x3A [.spec char, .spec len, .spec addr] rfl rfl rfl rfl
theorem skpc (char : Spec) (len : Spec) (addr : Spec) : Statement (.skpc char len addr) :=
  of_row 0x3B [.spec char, .spec len, .spec addr] rfl rfl rfl rfl
theorem movzwl (src : Spec) (dst : Spec) : Statement (.movzwl src dst) :=
  of_row 0x3C [.spec src, .spec dst] rfl rfl rfl rfl
theorem acbw (limit : Spec) (add : Spec) (idx : Spec) (displ : BitVec 16) : Statement (.acbw limit add idx displ) :=
  of_row 0x3D [.spec limit, .spec add, .spec idx, .dispW displ] rfl rfl rfl rfl
theorem movaw (src : Spec) (dst : Spec) : Statement (.movaw src dst) :=
  of_row 0x3E [.spec src, .spec dst] rfl rfl rfl rfl
theorem pushaw (src : Spec) : Statement (.pushaw src) :=
  of_row 0x3F [.spec src] rfl rfl rfl rfl
theorem addf2 (add : Spec) (sum : Spec) : Statement (.addf2 add sum) :=
  of_row 0x40 [.spec add, .spec sum] rfl rfl rfl rfl
theorem addf3 (add1 : Spec) (add2 : Spec) (sum : Spec) : Statement (.addf3 add1 add2 sum) :=
  of_row 0x41 [.spec add1, .spec add2, .spec sum] rfl rfl rfl rfl
theorem subf2 (sub : Spec) (dif : Spec) : Statement (.subf2 sub dif) :=
  of_row 0x42 [.spec sub, .spec dif] rfl rfl rfl rfl
theorem subf3 (sub : Spec) (minuend : Spec) (dif : Spec) : Statement (.subf3 sub minuend dif) :=
  of_row 0x43 [.spec sub, .spec minuend, .spec dif] rfl rfl rfl rfl
theorem mulf2 (mulr : Spec) (prod : Spec) : Statement (.mulf2 mulr prod) :=
  of_row 0x44 [.spec mulr, .spec prod] rfl rfl rfl rfl
theorem mulf3 (mulr : Spec) (muld : Spec) (prod : Spec) : Statement (.mulf3 mulr muld prod) :=
  of_row 0x45 [.spec mulr, .spec muld, .spec prod] rfl rfl rfl rfl
theorem divf2 (divr : Spec) (quo : Spec) : Statement (.divf2 divr quo) :=
  of_row 0x46 [.spec divr, .spec quo] rfl rfl rfl rfl
theorem divf3 (divr : Spec) (divd : Spec) (quo : Spec) : Statement (.divf3 divr divd quo) :=
  of_row 0x47 [.spec divr, .spec divd, .spec quo] rfl rfl rfl rfl
theorem cvtfb (src : Spec) (dst : Spec) : Statement (.cvtfb src dst) :=
  of_row 0x48 [.spec src, .spec dst] rfl rfl rfl rfl
theorem cvtfw (src : Spec) (dst : Spec) : Statement (.cvtfw src dst) :=
  of_row 0x49 [.spec src, .spec dst] rfl rfl rfl rfl
theorem cvtfl (src : Spec) (dst : Spec) : Statement (.cvtfl src dst) :=
  of_row 0x4A [.spec src, .spec dst] rfl rfl rfl rfl
theorem cvtrfl (src : Spec) (dst : Spec) : Statement (.cvtrfl src dst) :=
  of_row 0x4B [.spec src, .spec dst] rfl rfl rfl rfl
theorem cvtbf (src : Spec) (dst : Spec) : Statement (.cvtbf src dst) :=
  of_row 0x4C [.spec src, .spec dst] rfl rfl rfl rfl
theorem cvtwf (src : Spec) (dst : Spec) : Statement (.cvtwf src dst) :=
  of_row 0x4D [.spec src, .spec dst] rfl rfl rfl rfl
theorem cvtlf (src : Spec) (dst : Spec) : Statement (.cvtlf src dst) :=
  of_row 0x4E [.spec src, .spec dst] rfl rfl rfl rfl
theorem acbf (limit : Spec) (add : Spec) (idx : Spec) (displ : BitVec 16) : Statement (.acbf limit add idx displ) :=
  of_row 0x4F [.spec limit, .spec add, .spec idx, .dispW displ] rfl rfl rfl rfl
theorem movf (src : Spec) (dst : Spec) : Statement (.movf src dst) :=
  of_row 0x50 [.spec src, .spec dst] rfl rfl rfl rfl
theorem cmpf (src1 : Spec) (src2 : Spec) : Statement (.cmpf src1 src2) :=
  of_row 0x51 [.spec src1, .spec src2] rfl rfl rfl rfl
theorem mnegf (src : Spec) (dst : Spec) : Statement (.mnegf src dst) :=
  of_row 0x52 [.spec src, .spec dst] rfl rfl rfl rfl
theorem tstf (src : Spec) : Statement (.tstf src) :=
  of_row 0x53 [.spec src] rfl rfl rfl rfl
theorem emodf (mulr : Spec) (mulrx : Spec) (muld : Spec) (int : Spec) (fract : Spec) : Statement (.emodf mulr mulrx muld int fract) :=
  of_row 0x54 [.spec mulr, .spec mulrx, .spec muld, .spec int, .spec fract] rfl rfl rfl rfl
theorem polyf (arg : Spec) (degree : Spec) (tbladdr : Spec) : Statement (.polyf arg degree tbladdr) :=
  of_row 0x55 [.spec arg, .spec degree, .spec tbladdr] rfl rfl rfl rfl
theorem cvtfd (src : Spec) (dst : Spec) : Statement (.cvtfd src dst) :=
  of_row 0x56 [.spec src, .spec dst] rfl rfl rfl rfl
theorem adawi (add : Spec) (sum : Spec) : Statement (.adawi add sum) :=
  of_row 0x58 [.spec add, .spec sum] rfl rfl rfl rfl
theorem addd2 (add : Spec) (sum : Spec) : Statement (.addd2 add sum) :=
  of_row 0x60 [.spec add, .spec sum] rfl rfl rfl rfl
theorem addd3 (add1 : Spec) (add2 : Spec) (sum : Spec) : Statement (.addd3 add1 add2 sum) :=
  of_row 0x61 [.spec add1, .spec add2, .spec sum] rfl rfl rfl rfl
theorem subd2 (sub : Spec) (dif : Spec) : Statement (.subd2 sub dif) :=
  of_row 0x62 [.spec sub, .spec dif] rfl rfl rfl rfl
theorem subd3 (sub : Spec) (minuend : Spec) (dif : Spec) : Statement (.subd3 sub minuend dif) :=
  of_row 0x63 [.spec sub, .spec minuend, .spec dif] rfl rfl rfl rfl
theorem muld2 (mulr : Spec) (prod : Spec) : Statement (.muld2 mulr prod) :=
  of_row 0x64 [.spec mulr, .spec prod] rfl rfl rfl rfl
theorem muld3 (mulr : Spec) (muld : Spec) (prod : Spec) : Statement (.muld3 mulr muld prod) :=
  of_row 0x65 [.spec mulr, .spec muld, .spec prod] rfl rfl rfl rfl
theorem divd2 (divr : Spec) (quo : Spec) : Statement (.divd2 divr quo) :=
  of_row 0x66 [.spec divr, .spec quo] rfl rfl rfl rfl
theorem divd3 (divr : Spec) (divd : Spec) (quo : Spec) : Statement (.divd3 divr divd quo) :=
  of_row 0x67 [.spec divr, .spec divd, .spec quo] rfl rfl rfl rfl
theorem cvtdb (src : Spec) (dst : Spec) : Statement (.cvtdb src dst) :=
  of_row 0x68 [.spec src, .spec dst] rfl rfl rfl rfl
theorem cvtdw (src : Spec) (dst : Spec) : Statement (.cvtdw src dst) :=
  of_row 0x69 [.spec src, .spec dst] rfl rfl rfl rfl
theorem cvtdl (src : Spec) (dst : Spec) : Statement (.cvtdl src dst) :=
  of_row 0x6A [.spec src, .spec dst] rfl rfl rfl rfl
theorem cvtrdl (src : Spec) (dst : Spec) : Statement (.cvtrdl src dst) :=
  of_row 0x6B [.spec src, .spec dst] rfl rfl rfl rfl
theorem cvtbd (src : Spec) (dst : Spec) : Statement (.cvtbd src dst) :=
  of_row 0x6C [.spec src, .spec dst] rfl rfl rfl rfl
theorem cvtwd (src : Spec) (dst : Spec) : Statement (.cvtwd src dst) :=
  of_row 0x6D [.spec src, .spec dst] rfl rfl rfl rfl
theorem cvtld (src : Spec) (dst : Spec) : Statement (.cvtld src dst) :=
  of_row 0x6E [.spec src, .spec dst] rfl rfl rfl rfl
theorem acbd (limit : Spec) (add : Spec) (idx : Spec) (displ : BitVec 16) : Statement (.acbd limit add idx displ) :=
  of_row 0x6F [.spec limit, .spec add, .spec idx, .dispW displ] rfl rfl rfl rfl
theorem movd (src : Spec) (dst : Spec) : Statement (.movd src dst) :=
  of_row 0x70 [.spec src, .spec dst] rfl rfl rfl rfl
theorem cmpd (src1 : Spec) (src2 : Spec) : Statement (.cmpd src1 src2) :=
  of_row 0x71 [.spec src1, .spec src2] rfl rfl rfl rfl
theorem mnegd (src : Spec) (dst : Spec) : Statement (.mnegd src dst) :=
  of_row 0x72 [.spec src, .spec dst] rfl rfl rfl rfl
theorem tstd (src : Spec) : Statement (.tstd src) :=
  of_row 0x73 [.spec src] rfl rfl rfl rfl
theorem emodd (mulr : Spec) (mulrx : Spec) (muld : Spec) (int : Spec) (fract : Spec) : Statement (.emodd mulr mulrx muld int fract) :=
  of_row 0x74 [.spec mulr, .spec mulrx, .spec muld, .spec int, .spec fract] rfl rfl rfl rfl
theorem polyd (arg : Spec) (degree : Spec) (tbladdr : Spec) : Statement (.polyd arg degree tbladdr) :=
  of_row 0x75 [.spec arg, .spec degree, .spec tbladdr] rfl rfl rfl rfl
theorem cvtdf (src : Spec) (dst : Spec) : Statement (.cvtdf src dst) :=
  of_row 0x76 [.spec src, .spec dst] rfl rfl rfl rfl
theorem ashl (cnt : Spec) (src : Spec) (dst : Spec) : Statement (.ashl cnt src dst) :=
  of_row 0x78 [.spec cnt, .spec src, .spec dst] rfl rfl rfl rfl
theorem ashq (cnt : Spec) (src : Spec) (dst : Spec) : Statement (.ashq cnt src dst) :=
  of_row 0x79 [.spec cnt, .spec src, .spec dst] rfl rfl rfl rfl
theorem emul (mulr : Spec) (muld : Spec) (add : Spec) (prod : Spec) : Statement (.emul mulr muld add prod) :=
  of_row 0x7A [.spec mulr, .spec muld, .spec add, .spec prod] rfl rfl rfl rfl
theorem ediv (divr : Spec) (divd : Spec) (quo : Spec) (rem : Spec) : Statement (.ediv divr divd quo rem) :=
  of_row 0x7B [.spec divr, .spec divd, .spec quo, .spec rem] rfl rfl rfl rfl
theorem clrq (dst : Spec) : Statement (.clrq dst) :=
  of_row 0x7C [.spec dst] rfl rfl rfl rfl
theorem movq (src : Spec) (dst : Spec) : Statement (.movq src dst) :=
  of_row 0x7D [.spec src, .spec dst] rfl rfl rfl rfl
theorem movaq (src : Spec) (dst : Spec) : Statement (.movaq src dst) :=
  of_row 0x7E [.spec src, .spec dst] rfl rfl rfl rfl
theorem pushaq (src : Spec) : Statement (.pushaq src) :=
  of_row 0x7F [.spec src] rfl rfl rfl rfl
theorem addb2 (add : Spec) (sum : Spec) : Statement (.addb2 add sum) :=
  of_row 0x80 [.spec add, .spec sum] rfl rfl rfl rfl
theorem addb3 (add1 : Spec) (add2 : Spec) (sum : Spec) : Statement (.addb3 add1 add2 sum) :=
  of_row 0x81 [.spec add1, .spec add2, .spec sum] rfl rfl rfl rfl
theorem subb2 (sub : Spec) (dif : Spec) : Statement (.subb2 sub dif) :=
  of_row 0x82 [.spec sub, .spec dif] rfl rfl rfl rfl
theorem subb3 (sub : Spec) (minuend : Spec) (dif : Spec) : Statement (.subb3 sub minuend dif) :=
  of_row 0x83 [.spec sub, .spec minuend, .spec dif] rfl rfl rfl rfl
theorem mulb2 (mulr : Spec) (prod : Spec) : Statement (.mulb2 mulr prod) :=
  of_row 0x84 [.spec mulr, .spec prod] rfl rfl rfl rfl
theorem mulb3 (mulr : Spec) (muld : Spec) (prod : Spec) : Statement (.mulb3 mulr muld prod) :=
  of_row 0x85 [.spec mulr, .spec muld, .spec prod] rfl rfl rfl rfl
theorem divb2 (divr : Spec) (quo : Spec) : Statement (.divb2 divr quo) :=
  of_row 0x86 [.spec divr, .spec quo] rfl rfl rfl rfl
theorem divb3 (divr : Spec) (divd : Spec) (quo : Spec) : Statement (.divb3 divr divd quo) :=
  of_row 0x87 [.spec divr, .spec divd, .spec quo] rfl rfl rfl rfl
theorem bisb2 (mask : Spec) (dst : Spec) : Statement (.bisb2 mask dst) :=
  of_row 0x88 [.spec mask, .spec dst] rfl rfl rfl rfl
theorem bisb3 (mask : Spec) (src : Spec) (dst : Spec) : Statement (.bisb3 mask src dst) :=
  of_row 0x89 [.spec mask, .spec src, .spec dst] rfl rfl rfl rfl
theorem bicb2 (mask : Spec) (dst : Spec) : Statement (.bicb2 mask dst) :=
  of_row 0x8A [.spec mask, .spec dst] rfl rfl rfl rfl
theorem bicb3 (mask : Spec) (src : Spec) (dst : Spec) : Statement (.bicb3 mask src dst) :=
  of_row 0x8B [.spec mask, .spec src, .spec dst] rfl rfl rfl rfl
theorem xorb2 (mask : Spec) (dst : Spec) : Statement (.xorb2 mask dst) :=
  of_row 0x8C [.spec mask, .spec dst] rfl rfl rfl rfl
theorem xorb3 (mask : Spec) (src : Spec) (dst : Spec) : Statement (.xorb3 mask src dst) :=
  of_row 0x8D [.spec mask, .spec src, .spec dst] rfl rfl rfl rfl
theorem mnegb (src : Spec) (dst : Spec) : Statement (.mnegb src dst) :=
  of_row 0x8E [.spec src, .spec dst] rfl rfl rfl rfl
theorem caseb (selector : Spec) (base : Spec) (limit : Spec) : Statement (.caseb selector base limit) :=
  of_row 0x8F [.spec selector, .spec base, .spec limit] rfl rfl rfl rfl
theorem movb (src : Spec) (dst : Spec) : Statement (.movb src dst) :=
  of_row 0x90 [.spec src, .spec dst] rfl rfl rfl rfl
theorem cmpb (src1 : Spec) (src2 : Spec) : Statement (.cmpb src1 src2) :=
  of_row 0x91 [.spec src1, .spec src2] rfl rfl rfl rfl
theorem mcomb (src : Spec) (dst : Spec) : Statement (.mcomb src dst) :=
  of_row 0x92 [.spec src, .spec dst] rfl rfl rfl rfl
theorem bitb (mask : Spec) (src : Spec) : Statement (.bitb mask src) :=
  of_row 0x93 [.spec mask, .spec src] rfl rfl rfl rfl
theorem clrb (dst : Spec) : Statement (.clrb dst) :=
  of_row 0x94 [.spec dst] rfl rfl rfl rfl
theorem tstb (src : Spec) : Statement (.tstb src) :=
  of_row 0x95 [.spec src] rfl rfl rfl rfl
theorem incb (sum : Spec) : Statement (.incb sum) :=
  of_row 0x96 [.spec sum] rfl rfl rfl rfl
theorem decb (dif : Spec) : Statement (.decb dif) :=
  of_row 0x97 [.spec dif] rfl rfl rfl rfl
theorem cvtbl (src : Spec) (dst : Spec) : Statement (.cvtbl src dst) :=
  of_row 0x98 [.spec src, .spec dst] rfl rfl rfl rfl
theorem cvtbw (src : Spec) (dst : Spec) : Statement (.cvtbw src dst) :=
  of_row 0x99 [.spec src, .spec dst] rfl rfl rfl rfl
theorem movzbl (src : Spec) (dst : Spec) : Statement (.movzbl src dst) :=
  of_row 0x9A [.spec src, .spec dst] rfl rfl rfl rfl
theorem movzbw (src : Spec) (dst : Spec) : Statement (.movzbw src dst) :=
  of_row 0x9B [.spec src, .spec dst] rfl rfl rfl rfl
theorem rotl (cnt : Spec) (src : Spec) (dst : Spec) : Statement (.rotl cnt src dst) :=
  of_row 0x9C [.spec cnt, .spec src, .spec dst] rfl rfl rfl rfl
theorem acbb (limit : Spec) (add : Spec) (idx : Spec) (displ : BitVec 16) : Statement (.acbb limit add idx displ) :=
  of_row 0x9D [.spec limit, .spec add, .spec idx, .dispW displ] rfl rfl rfl rfl
theorem movab (src : Spec) (dst : Spec) : Statement (.movab src dst) :=
  of_row 0x9E [.spec src, .spec dst] rfl rfl rfl rfl
theorem pushab (src : Spec) : Statement (.pushab src) :=
  of_row 0x9F [.spec src] rfl rfl rfl rfl
theorem addw2 (add : Spec) (sum : Spec) : Statement (.addw2 add sum) :=
  of_row 0xA0 [.spec add, .spec sum] rfl rfl rfl rfl
theorem addw3 (add1 : Spec) (add2 : Spec) (sum : Spec) : Statement (.addw3 add1 add2 sum) :=
  of_row 0xA1 [.spec add1, .spec add2, .spec sum] rfl rfl rfl rfl
theorem subw2 (sub : Spec) (dif : Spec) : Statement (.subw2 sub dif) :=
  of_row 0xA2 [.spec sub, .spec dif] rfl rfl rfl rfl
theorem subw3 (sub : Spec) (minuend : Spec) (dif : Spec) : Statement (.subw3 sub minuend dif) :=
  of_row 0xA3 [.spec sub, .spec minuend, .spec dif] rfl rfl rfl rfl
theorem mulw2 (mulr : Spec) (prod : Spec) : Statement (.mulw2 mulr prod) :=
  of_row 0xA4 [.spec mulr, .spec prod] rfl rfl rfl rfl
theorem mulw3 (mulr : Spec) (muld : Spec) (prod : Spec) : Statement (.mulw3 mulr muld prod) :=
  of_row 0xA5 [.spec mulr, .spec muld, .spec prod] rfl rfl rfl rfl
theorem divw2 (divr : Spec) (quo : Spec) : Statement (.divw2 divr quo) :=
  of_row 0xA6 [.spec divr, .spec quo] rfl rfl rfl rfl
theorem divw3 (divr : Spec) (divd : Spec) (quo : Spec) : Statement (.divw3 divr divd quo) :=
  of_row 0xA7 [.spec divr, .spec divd, .spec quo] rfl rfl rfl rfl
theorem bisw2 (mask : Spec) (dst : Spec) : Statement (.bisw2 mask dst) :=
  of_row 0xA8 [.spec mask, .spec dst] rfl rfl rfl rfl
theorem bisw3 (mask : Spec) (src : Spec) (dst : Spec) : Statement (.bisw3 mask src dst) :=
  of_row 0xA9 [.spec mask, .spec src, .spec dst] rfl rfl rfl rfl
theorem bicw2 (mask : Spec) (dst : Spec) : Statement (.bicw2 mask dst) :=
  of_row 0xAA [.spec mask, .spec dst] rfl rfl rfl rfl
theorem bicw3 (mask : Spec) (src : Spec) (dst : Spec) : Statement (.bicw3 mask src dst) :=
  of_row 0xAB [.spec mask, .spec src, .spec dst] rfl rfl rfl rfl
theorem xorw2 (mask : Spec) (dst : Spec) : Statement (.xorw2 mask dst) :=
  of_row 0xAC [.spec mask, .spec dst] rfl rfl rfl rfl
theorem xorw3 (mask : Spec) (src : Spec) (dst : Spec) : Statement (.xorw3 mask src dst) :=
  of_row 0xAD [.spec mask, .spec src, .spec dst] rfl rfl rfl rfl
theorem mnegw (src : Spec) (dst : Spec) : Statement (.mnegw src dst) :=
  of_row 0xAE [.spec src, .spec dst] rfl rfl rfl rfl
theorem casew (selector : Spec) (base : Spec) (limit : Spec) : Statement (.casew selector base limit) :=
  of_row 0xAF [.spec selector, .spec base, .spec limit] rfl rfl rfl rfl
theorem movw (src : Spec) (dst : Spec) : Statement (.movw src dst) :=
  of_row 0xB0 [.spec src, .spec dst] rfl rfl rfl rfl
theorem cmpw (src1 : Spec) (src2 : Spec) : Statement (.cmpw src1 src2) :=
  of_row 0xB1 [.spec src1, .spec src2] rfl rfl rfl rfl
theorem mcomw (src : Spec) (dst : Spec) : Statement (.mcomw src dst) :=
  of_row 0xB2 [.spec src, .spec dst] rfl rfl rfl rfl
theorem bitw (mask : Spec) (src : Spec) : Statement (.bitw mask src) :=
  of_row 0xB3 [.spec mask, .spec src] rfl rfl rfl rfl
theorem clrw (dst : Spec) : Statement (.clrw dst) :=
  of_row 0xB4 [.spec dst] rfl rfl rfl rfl
theorem tstw (src : Spec) : Statement (.tstw src) :=
  of_row 0xB5 [.spec src] rfl rfl rfl rfl
theorem incw (sum : Spec) : Statement (.incw sum) :=
  of_row 0xB6 [.spec sum] rfl rfl rfl rfl
theorem decw (dif : Spec) : Statement (.decw dif) :=
  of_row 0xB7 [.spec dif] rfl rfl rfl rfl
theorem bispsw (mask : Spec) : Statement (.bispsw mask) :=
  of_row 0xB8 [.spec mask] rfl rfl rfl rfl
theorem bicpsw (mask : Spec) : Statement (.bicpsw mask) :=
  of_row 0xB9 [.spec mask] rfl rfl rfl rfl
theorem popr (mask : Spec) : Statement (.popr mask) :=
  of_row 0xBA [.spec mask] rfl rfl rfl rfl
theorem pushr (mask : Spec) : Statement (.pushr mask) :=
  of_row 0xBB [.spec mask] rfl rfl rfl rfl
theorem chmk (code : Spec) : Statement (.chmk code) :=
  of_row 0xBC [.spec code] rfl rfl rfl rfl
theorem chme (code : Spec) : Statement (.chme code) :=
  of_row 0xBD [.spec code] rfl rfl rfl rfl
theorem chms (code : Spec) : Statement (.chms code) :=
  of_row 0xBE [.spec code] rfl rfl rfl rfl
theorem chmu (code : Spec) : Statement (.chmu code) :=
  of_row 0xBF [.spec code] rfl rfl rfl rfl
theorem addl2 (add : Spec) (sum : Spec) : Statement (.addl2 add sum) :=
  of_row 0xC0 [.spec add, .spec sum] rfl rfl rfl rfl
theorem addl3 (add1 : Spec) (add2 : Spec) (sum : Spec) : Statement (.addl3 add1 add2 sum) :=
  of_row 0xC1 [.spec add1, .spec add2, .spec sum] rfl rfl rfl rfl
theorem subl2 (sub : Spec) (dif : Spec) : Statement (.subl2 sub dif) :=
  of_row 0xC2 [.spec sub, .spec dif] rfl rfl rfl rfl
theorem subl3 (sub : Spec) (minuend : Spec) (dif : Spec) : Statement (.subl3 sub minuend dif) :=
  of_row 0xC3 [.spec sub, .spec minuend, .spec dif] rfl rfl rfl rfl
theorem mull2 (mulr : Spec) (prod : Spec) : Statement (.mull2 mulr prod) :=
  of_row 0xC4 [.spec mulr, .spec prod] rfl rfl rfl rfl
theorem mull3 (mulr : Spec) (muld : Spec) (prod : Spec) : Statement (.mull3 mulr muld prod) :=
  of_row 0xC5 [.spec mulr, .spec muld, .spec prod] rfl rfl rfl rfl
theorem divl2 (divr : Spec) (quo : Spec) : Statement (.divl2 divr quo) :=
  of_row 0xC6 [.spec divr, .spec quo] rfl rfl rfl rfl
theorem divl3 (divr : Spec) (divd : Spec) (quo : Spec) : Statement (.divl3 divr divd quo) :=
  of_row 0xC7 [.spec divr, .spec divd, .spec quo] rfl rfl rfl rfl
theorem bisl2 (mask : Spec) (dst : Spec) : Statement (.bisl2 mask dst) :=
  of_row 0xC8 [.spec mask, .spec dst] rfl rfl rfl rfl
theorem bisl3 (mask : Spec) (src : Spec) (dst : Spec) : Statement (.bisl3 mask src dst) :=
  of_row 0xC9 [.spec mask, .spec src, .spec dst] rfl rfl rfl rfl
theorem bicl2 (mask : Spec) (dst : Spec) : Statement (.bicl2 mask dst) :=
  of_row 0xCA [.spec mask, .spec dst] rfl rfl rfl rfl
theorem bicl3 (mask : Spec) (src : Spec) (dst : Spec) : Statement (.bicl3 mask src dst) :=
  of_row 0xCB [.spec mask, .spec src, .spec dst] rfl rfl rfl rfl
theorem xorl2 (mask : Spec) (dst : Spec) : Statement (.xorl2 mask dst) :=
  of_row 0xCC [.spec mask, .spec dst] rfl rfl rfl rfl
theorem xorl3 (mask : Spec) (src : Spec) (dst : Spec) : Statement (.xorl3 mask src dst) :=
  of_row 0xCD [.spec mask, .spec src, .spec dst] rfl rfl rfl rfl
theorem mnegl (src : Spec) (dst : Spec) : Statement (.mnegl src dst) :=
  of_row 0xCE [.spec src, .spec dst] rfl rfl rfl rfl
theorem casel (selector : Spec) (base : Spec) (limit : Spec) : Statement (.casel selector base limit) :=
  of_row 0xCF [.spec selector, .spec base, .spec limit] rfl rfl rfl rfl
theorem movl (src : Spec) (dst : Spec) : Statement (.movl src dst) :=
  of_row 0xD0 [.spec src, .spec dst] rfl rfl rfl rfl
theorem cmpl (src1 : Spec) (src2 : Spec) : Statement (.cmpl src1 src2) :=
  of_row 0xD1 [.spec src1, .spec src2] rfl rfl rfl rfl
theorem mcoml (src : Spec) (dst : Spec) : Statement (.mcoml src dst) :=
  of_row 0xD2 [.spec src, .spec dst] rfl rfl rfl rfl
theorem bitl (mask : Spec) (src : Spec) : Statement (.bitl mask src) :=
  of_row 0xD3 [.spec mask, .spec src] rfl rfl rfl rfl
theorem clrl (dst : Spec) : Statement (.clrl dst) :=
  of_row 0xD4 [.spec dst] rfl rfl rfl rfl
theorem tstl (src : Spec) : Statement (.tstl src) :=
  of_row 0xD5 [.spec src] rfl rfl rfl rfl
theorem incl (sum : Spec) : Statement (.incl sum) :=
  of_row 0xD6 [.spec sum] rfl rfl rfl rfl
theorem decl (dif : Spec) : Statement (.decl dif) :=
  of_row 0xD7 [.spec dif] rfl rfl rfl rfl
theorem adwc (add : Spec) (sum : Spec) : Statement (.adwc add sum) :=
  of_row 0xD8 [.spec add, .spec sum] rfl rfl rfl rfl
theorem sbwc (sub : Spec) (dif : Spec) : Statement (.sbwc sub dif) :=
  of_row 0xD9 [.spec sub, .spec dif] rfl rfl rfl rfl
theorem mtpr (src : Spec) (regnumber : Spec) : Statement (.mtpr src regnumber) :=
  of_row 0xDA [.spec src, .spec regnumber] rfl rfl rfl rfl
theorem mfpr (regnumber : Spec) (dst : Spec) : Statement (.mfpr regnumber dst) :=
  of_row 0xDB [.spec regnumber, .spec dst] rfl rfl rfl rfl
theorem movpsl (dst : Spec) : Statement (.movpsl dst) :=
  of_row 0xDC [.spec dst] rfl rfl rfl rfl
theorem pushl (src : Spec) : Statement (.pushl src) :=
  of_row 0xDD [.spec src] rfl rfl rfl rfl
theorem moval (src : Spec) (dst : Spec) : Statement (.moval src dst) :=
  of_row 0xDE [.spec src, .spec dst] rfl rfl rfl rfl
theorem pushal (src : Spec) : Statement (.pushal src) :=
  of_row 0xDF [.spec src] rfl rfl rfl rfl
theorem bbs (pos : Spec) (base : Spec) (displ : BitVec 8) : Statement (.bbs pos base displ) :=
  of_row 0xE0 [.spec pos, .spec base, .dispB displ] rfl rfl rfl rfl
theorem bbc (pos : Spec) (base : Spec) (displ : BitVec 8) : Statement (.bbc pos base displ) :=
  of_row 0xE1 [.spec pos, .spec base, .dispB displ] rfl rfl rfl rfl
theorem bbss (pos : Spec) (base : Spec) (displ : BitVec 8) : Statement (.bbss pos base displ) :=
  of_row 0xE2 [.spec pos, .spec base, .dispB displ] rfl rfl rfl rfl
theorem bbcs (pos : Spec) (base : Spec) (displ : BitVec 8) : Statement (.bbcs pos base displ) :=
  of_row 0xE3 [.spec pos, .spec base, .dispB displ] rfl rfl rfl rfl
theorem bbsc (pos : Spec) (base : Spec) (displ : BitVec 8) : Statement (.bbsc pos base displ) :=
  of_row 0xE4 [.spec pos, .spec base, .dispB displ] rfl rfl rfl rfl
theorem bbcc (pos : Spec) (base : Spec) (displ : BitVec 8) : Statement (.bbcc pos base displ) :=
  of_row 0xE5 [.spec pos, .spec base, .dispB displ] rfl rfl rfl rfl
theorem bbssi (pos : Spec) (base : Spec) (displ : BitVec 8) : Statement (.bbssi pos base displ) :=
  of_row 0xE6 [.spec pos, .spec base, .dispB displ] rfl rfl rfl rfl
theorem bbcci (pos : Spec) (base : Spec) (displ : BitVec 8) : Statement (.bbcci pos base displ) :=
  of_row 0xE7 [.spec pos, .spec base, .dispB displ] rfl rfl rfl rfl
theorem blbs (src : Spec) (displ : BitVec 8) : Statement (.blbs src displ) :=
  of_row 0xE8 [.spec src, .dispB displ] rfl rfl rfl rfl
theorem blbc (src : Spec) (displ : BitVec 8) : Statement (.blbc src displ) :=
  of_row 0xE9 [.spec src, .dispB displ] rfl rfl rfl rfl
theorem ffs (startpos : Spec) (size : Spec) (base : Spec) (findpos : Spec) : Statement (.ffs startpos size base findpos) :=
  of_row 0xEA [.spec startpos, .spec size, .spec base, .spec findpos] rfl rfl rfl rfl
theorem ffc (startpos : Spec) (size : Spec) (base : Spec) (findpos : Spec) : Statement (.ffc startpos size base findpos) :=
  of_row 0xEB [.spec startpos, .spec size, .spec base, .spec findpos] rfl rfl rfl rfl
theorem cmpv (pos : Spec) (size : Spec) (base : Spec) (src : Spec) : Statement (.cmpv pos size base src) :=
  of_row 0xEC [.spec pos, .spec size, .spec base, .spec src] rfl rfl rfl rfl
theorem cmpzv (pos : Spec) (size : Spec) (base : Spec) (src : Spec) : Statement (.cmpzv pos size base src) :=
  of_row 0xED [.spec pos, .spec size, .spec base, .spec src] rfl rfl rfl rfl
theorem extv (pos : Spec) (size : Spec) (base : Spec) (dst : Spec) : Statement (.extv pos size base dst) :=
  of_row 0xEE [.spec pos, .spec size, .spec base, .spec dst] rfl rfl rfl rfl
theorem extzv (pos : Spec) (size : Spec) (base : Spec) (dst : Spec) : Statement (.extzv pos size base dst) :=
  of_row 0xEF [.spec pos, .spec size, .spec base, .spec dst] rfl rfl rfl rfl
theorem insv (src : Spec) (pos : Spec) (size : Spec) (base : Spec) : Statement (.insv src pos size base) :=
  of_row 0xF0 [.spec src, .spec pos, .spec size, .spec base] rfl rfl rfl rfl
theorem acbl (limit : Spec) (add : Spec) (idx : Spec) (displ : BitVec 16) : Statement (.acbl limit add idx displ) :=
  of_row 0xF1 [.spec limit, .spec add, .spec idx, .dispW displ] rfl rfl rfl rfl
theorem aoblss (limit : Spec) (idx : Spec) (displ : BitVec 8) : Statement (.aoblss limit idx displ) :=
  of_row 0xF2 [.spec limit, .spec idx, .dispB displ] rfl rfl rfl rfl
theorem aobleq (limit : Spec) (idx : Spec) (displ : BitVec 8) : Statement (.aobleq limit idx displ) :=
  of_row 0xF3 [.spec limit, .spec idx, .dispB displ] rfl rfl rfl rfl
theorem sobgeq (idx : Spec) (displ : BitVec 8) : Statement (.sobgeq idx displ) :=
  of_row 0xF4 [.spec idx, .dispB displ] rfl rfl rfl rfl
theorem sobgtr (idx : Spec) (displ : BitVec 8) : Statement (.sobgtr idx displ) :=
  of_row 0xF5 [.spec idx, .dispB displ] rfl rfl rfl rfl
theorem cvtlb (src : Spec) (dst : Spec) : Statement (.cvtlb src dst) :=
  of_row 0xF6 [.spec src, .spec dst] rfl rfl rfl rfl
theorem cvtlw (src : Spec) (dst : Spec) : Statement (.cvtlw src dst) :=
  of_row 0xF7 [.spec src, .spec dst] rfl rfl rfl rfl
theorem ashp (cnt : Spec) (srclen : Spec) (srcaddr : Spec) (round : Spec) (dstlen : Spec) (dstaddr : Spec) : Statement (.ashp cnt srclen srcaddr round dstlen dstaddr) :=
  of_row 0xF8 [.spec cnt, .spec srclen, .spec srcaddr, .spec round, .spec dstlen, .spec dstaddr] rfl rfl rfl rfl
theorem cvtlp (src : Spec) (dstlen : Spec) (dstaddr : Spec) : Statement (.cvtlp src dstlen dstaddr) :=
  of_row 0xF9 [.spec src, .spec dstlen, .spec dstaddr] rfl rfl rfl rfl
theorem callg (arglist : Spec) (dst : Spec) : Statement (.callg arglist dst) :=
  of_row 0xFA [.spec arglist, .spec dst] rfl rfl rfl rfl
theorem calls (numarg : Spec) (dst : Spec) : Statement (.calls numarg dst) :=
  of_row 0xFB [.spec numarg, .spec dst] rfl rfl rfl rfl
theorem halt : Statement (.halt) :=
  of_row 0x00 [] rfl rfl rfl rfl
theorem nop : Statement (.nop) :=
  of_row 0x01 [] rfl rfl rfl rfl
theorem rei : Statement (.rei) :=
  of_row 0x02 [] rfl rfl rfl rfl
theorem bpt : Statement (.bpt) :=
  of_row 0x03 [] rfl rfl rfl rfl
theorem ret : Statement (.ret) :=
  of_row 0x04 [] rfl rfl rfl rfl
theorem rsb : Statement (.rsb) :=
  of_row 0x05 [] rfl rfl rfl rfl
theorem ldpctx : Statement (.ldpctx) :=
  of_row 0x06 [] rfl rfl rfl rfl
theorem svpctx : Statement (.svpctx) :=
  of_row 0x07 [] rfl rfl rfl rfl
theorem reserved57 : Statement (.reserved57) :=
  of_row 0x57 [] rfl rfl rfl rfl
theorem reserved59 : Statement (.reserved59) :=
  of_row 0x59 [] rfl rfl rfl rfl
theorem reserved5a : Statement (.reserved5a) :=
  of_row 0x5A [] rfl rfl rfl rfl
theorem reserved5b : Statement (.reserved5b) :=
  of_row 0x5B [] rfl rfl rfl rfl
theorem reserved5c : Statement (.reserved5c) :=
  of_row 0x5C [] rfl rfl rfl rfl
theorem reserved5d : Statement (.reserved5d) :=
  of_row 0x5D [] rfl rfl rfl rfl
theorem reserved5e : Statement (.reserved5e) :=
  of_row 0x5E [] rfl rfl rfl rfl
theorem reserved5f : Statement (.reserved5f) :=
  of_row 0x5F [] rfl rfl rfl rfl
theorem reserved77 : Statement (.reserved77) :=
  of_row 0x77 [] rfl rfl rfl rfl
theorem xfc : Statement (.xfc) :=
  of_row 0xFC [] rfl rfl rfl rfl
theorem escd : Statement (.escd) :=
  of_row 0xFD [] rfl rfl rfl rfl
theorem esce : Statement (.esce) :=
  of_row 0xFE [] rfl rfl rfl rfl
theorem escf : Statement (.escf) :=
  of_row 0xFF [] rfl rfl rfl rfl

end Sys2Proof.Laws.Encoding
end

