-- ==== Sys2Proof/Laws/Stores.lean ====
section
/-! SUPPORT. Which bytes of main memory a store changes. -/
namespace Sys2Proof.Machine
open Sys2Proof

theorem SameByte.refl (s : State) (pa : Nat) : SameByte s s pa := .inl rfl

theorem SameByte.trans {s t u : State} {pa : Nat} (hm : t.ipr.mapen = s.ipr.mapen)
    (grow : ∀ x, t.pteAt x → u.pteAt x) (h : SameByte s t pa) (g : SameByte t u pa) : SameByte s u pa := by
  rcases h with h | ⟨e, l, p, b, hb, ht⟩
  · rcases g with g | ⟨e, l, p, b, hb, hu⟩
    · exact .inl (g.trans h)
    · exact .inr ⟨hm ▸ e, l, p, b, h ▸ hb, hu⟩
  · refine .inr ⟨e, l, grow _ p, b, hb, ?_⟩
    rcases g with g | ⟨_, _, _, c, hc, hu⟩
    · rw [g, ht]
    · rw [ht] at hc
      injection hc with hc
      rw [hu, ← hc, BitVec.or_assoc, BitVec.or_self]

/-- A buffer that only grows keeps the longwords it holds PTEs of. -/
theorem Kept.pteAt {io wr : Bool} {regs : List Reg} {s t : State} (h : Kept io wr regs s t) {x : Nat} (p : s.pteAt x) :
    t.pteAt x := by
  obtain ⟨e, he, hx⟩ := p
  obtain ⟨f, hf, _, ha, hs⟩ := h.tb e he
  exact ⟨f, hf, by rw [ha, hs]; exact hx⟩

/-- The machine's memory map and the bytes of memory, but for modify bits, are kept. -/
structure SameMem (s t : State) : Prop where
  cfg : t.cfg = s.cfg
  mapen : t.ipr.mapen = s.ipr.mapen
  memctls : t.bus.memctls = s.bus.memctls
  pte : ∀ x, s.pteAt x → t.pteAt x
  wf : Memory.wf s.mem = true → Memory.wf t.mem = true
  byte : Memory.wf s.mem = true → ∀ pa, SameByte s t pa
  errs : s.errs.memory = [] → t.errs.memory = []

theorem SameMem.refl (s : State) : SameMem s s := ⟨rfl, rfl, rfl, fun _ => id, id, fun _ _ => .inl rfl, id⟩

theorem SameMem.trans {s t u : State} (h : SameMem s t) (g : SameMem t u) : SameMem s u :=
  ⟨g.cfg.trans h.cfg, g.mapen.trans h.mapen, g.memctls.trans h.memctls, fun x => g.pte x ∘ h.pte x, g.wf ∘ h.wf,
    fun w pa => SameByte.trans h.mapen g.pte (h.byte w pa) (g.byte (h.wf w) pa), g.errs ∘ h.errs⟩

theorem SameMem.chain : Chain SameMem := ⟨SameMem.refl, SameMem.trans⟩

/-- What leaves memory alone keeps its bytes. -/
theorem SameMem.ofKept {io : Bool} {regs : List Reg} {s t : State} (h : Kept io false regs s t) : SameMem s t :=
  ⟨h.cfg, by rw [h.ipr], h.memctls (by cases io <;> rfl), fun _ => h.pteAt, h.wf, fun _ pa =>
    .inl (State.memByte_congr h.cfg (h.memctls (by cases io <;> rfl)) (h.mem rfl).1 pa), h.noErrs.1⟩

theorem Keeps.sameMem {α : Type} {m : M α} {io : Bool} {regs : List Reg} (h : Keeps (Kept io false regs) m) :
    Keeps SameMem m := h.mono fun _ _ => SameMem.ofKept

/-! ### Stores to main memory -/

theorem map_ok {α β : Type} {f : α → β} {m : M α} {s t : State} {b : β} (h : (f <$> m) s = .ok b t) :
    ∃ a, m s = .ok a t ∧ f a = b := by
  obtain ⟨a, u, h1, h2⟩ := bind_ok (x := m) (f := fun a => pure (f a)) h
  injection h2 with e1 e2
  subst e2
  exact ⟨a, h1, e1⟩

/-- Once: what a store to main memory does: each byte is stored, unless it lies in a quadword with a double-bit error; every
other byte reads as before. -/
theorem cpuStore_bytes {pas : List Nat} (hn : pas.Nodup) {v : Nat} {s t : State} (hw : Memory.wf s.mem = true)
    (h : cpuStore pas v s = .ok () t) :
    (∀ i (hi : i < pas.length), t.memByte pas[i] = some (BitVec.ofNat 8 (v / 256 ^ i)) ∨
      (s.errs.memory ≠ [] ∧ t.memByte pas[i] = s.memByte pas[i])) ∧
      ∀ pa, pa ∉ pas → t.memByte pa = s.memByte pa := by
  induction pas generalizing v s with
  | nil =>
    injection h with _ h
    subst h
    exact ⟨fun i hi => absurd hi (Nat.not_lt_zero i), fun _ _ => rfl⟩
  | cons p ps ih =>
    obtain ⟨hp, hps⟩ := List.nodup_cons.1 hn
    obtain ⟨⟨⟩, u, h1, h2⟩ := bind_ok h
    have k := (cpuStoreByte_kept (io := false) (regs := []) p (BitVec.ofNat 8 v)).ok h1
    have hb := cpuStoreByte_bytes hw h1
    obtain ⟨g1, g2⟩ := ih hps (k.wf hw) h2
    refine ⟨fun i hi => ?_, fun pa hpa => ?_⟩
    · cases i with
      | zero =>
        show t.memByte p = _ ∨ _ ∧ t.memByte p = _
        rw [g2 p hp, Nat.pow_zero, Nat.div_one]
        exact hb.1
      | succ i =>
        have hi' : i < ps.length := Nat.lt_of_succ_lt_succ hi
        show t.memByte ps[i] = _ ∨ _ ∧ t.memByte ps[i] = s.memByte ps[i]
        have ne : ps[i] ≠ p := fun e => hp (e ▸ List.getElem_mem hi')
        rw [← hb.2 ps[i] ne]
        rcases g1 i hi' with g | ⟨ne, g⟩
        · exact .inl (by rw [g, Nat.div_div_eq_div_mul, Nat.pow_succ, Nat.mul_comm])
        · exact .inr ⟨fun e => ne (k.noErrs.1 e), g⟩
    · rw [g2 pa fun e => hpa (List.mem_cons_of_mem _ e), hb.2]
      rintro rfl
      exact hpa (List.mem_cons_self ..)

/-- Once: what a store to a main memory without errors does. -/
theorem cpuStore_memByte {pas : List Nat} (hn : pas.Nodup) {v : Nat} {s t : State} (hw : Memory.wf s.mem = true)
    (he : s.errs.memory = []) (h : cpuStore pas v s = .ok () t) :
    (∀ i (hi : i < pas.length), t.memByte pas[i] = some (BitVec.ofNat 8 (v / 256 ^ i))) ∧
      ∀ pa, pa ∉ pas → t.memByte pa = s.memByte pa := by
  obtain ⟨h1, h2⟩ := cpuStore_bytes hn hw h
  exact ⟨fun i hi => (h1 i hi).resolve_right fun e => e.1 he, h2⟩

/-- Once: what a read of main memory brings. -/
theorem cpuLoad_bytes {pas : List Nat} {n : Nat} {s t : State} (h : cpuLoad pas s = .ok n t) :
    ∀ i (hi : i < pas.length), s.memByte pas[i] = some (BitVec.ofNat 8 (n / 256 ^ i)) := by
  induction pas generalizing n s t with
  | nil => exact fun i hi => absurd hi (Nat.not_lt_zero i)
  | cons p ps ih =>
    obtain ⟨b, u, h1, h2⟩ := bind_ok h
    obtain ⟨r, v, h3, h4⟩ := bind_ok h2
    injection h4 with e _
    subst e
    have k := (cpuLoadByte_kept (io := false) (wr := false) (regs := []) p).ok h1
    have lt := b.isLt
    intro i hi
    cases i with
    | zero =>
      show s.memByte p = _
      rw [cpuLoadByte_memByte h1, Nat.pow_zero, Nat.div_one]
      refine congrArg some (BitVec.eq_of_toNat_eq ?_)
      simp only [BitVec.toNat_ofNat]
      omega
    | succ i =>
      have hi' : i < ps.length := Nat.lt_of_succ_lt_succ hi
      show s.memByte ps[i] = _
      rw [← State.memByte_congr k.cfg (k.memctls rfl) (k.mem rfl).1, ih h3 i hi']
      rw [Nat.pow_succ, Nat.mul_comm (256 ^ i), ← Nat.div_div_eq_div_mul]
      rw [show (b.toNat + 256 * r) / 256 = r by omega]

/-- Recording a store changes no byte. -/
theorem State.noteChanges_memByte (s : State) (cs : List MapChange) (pa : Nat) :
    (s.noteChanges cs).memByte pa = s.memByte pa :=
  State.memByte_congr (by simp) (by simp) (by simp) pa

/-- Once: what a store of the program to a main memory without errors does. -/
theorem programStore_memByte {pas : List Nat} (hn : pas.Nodup) {v : Nat} {s t : State} (hw : Memory.wf s.mem = true)
    (he : s.errs.memory = []) (h : programStore pas v s = .ok () t) :
    (∀ i (hi : i < pas.length), t.memByte pas[i] = some (BitVec.ofNat 8 (v / 256 ^ i))) ∧
      ∀ pa, pa ∉ pas → t.memByte pa = s.memByte pa := by
  obtain ⟨⟨⟩, u, h1, h2⟩ := bind_ok h
  injection h1 with _ h1
  subst h1
  obtain ⟨g1, g2⟩ := cpuStore_memByte hn (by simpa using hw) (by simpa using he) h2
  exact ⟨g1, fun pa hpa => (g2 pa hpa).trans (State.noteChanges_memByte _ _ _)⟩

theorem needMemory_same {pas : List Nat} {s t : State} (h : needMemory pas s = .ok () t) : t = s := by
  induction pas with
  | nil =>
    injection h with _ h
    exact h.symm
  | cons p ps ih =>
    obtain ⟨a, u, h1, h2⟩ := bind_ok h
    injection h1 with ha hu
    subst ha hu
    cases hc : s.cell p with
    | none =>
      rw [hc] at h2
      cases h2
    | some c =>
      rw [hc] at h2
      exact ih h2

/-- Once: what a store to main memory, or its refusal by the bus, does to memory. -/
theorem physStore_memByte {io ilk : Bool} {pas : List Nat} (hn : pas.Nodup) {v : Nat} {s t : State}
    (hio : touchesIo pas = false) (hw : Memory.wf s.mem = true) (he : s.errs.memory = []) (h : physStore io ilk pas v s = .ok () t) :
    (∀ i (hi : i < pas.length), t.memByte pas[i] = some (BitVec.ofNat 8 (v / 256 ^ i))) ∧
      ∀ pa, pa ∉ pas → t.memByte pa = s.memByte pa := by
  unfold physStore at h
  rw [if_neg (by simp [hio])] at h
  obtain ⟨⟨⟩, u, h1, h2⟩ := bind_ok h
  obtain rfl := needMemory_same h1
  exact programStore_memByte hn hw he h2

/-! ### Modify bits -/

theorem byte_of_nat (n i : Nat) (hi : i < 4) : n / 256 ^ i % 2 ^ 8 = n % 2 ^ 32 / 2 ^ (8 * i) % 2 ^ 8 := by
  rcases (by omega : i = 0 ∨ i = 1 ∨ i = 2 ∨ i = 3) with rfl | rfl | rfl | rfl <;> omega

theorem byte_setBit26 (w : Word) :
    byteOf (setBit w 26 true) 0 = byteOf w 0 ∧ byteOf (setBit w 26 true) 1 = byteOf w 1 ∧
      byteOf (setBit w 26 true) 2 = byteOf w 2 ∧ byteOf (setBit w 26 true) 3 = byteOf w 3 ||| 4 := by
  have h : setBit w 26 true = w ||| 0x4000000#32 := by
    have e : (BitVec.allOnes 1).setWidth 32 <<< 26 = 0x4000000#32 := by decide
    have e' : (BitVec.ofBool true).setWidth 32 <<< 26 = 0x4000000#32 := by decide
    rw [setBit, setField, e, e']
    apply BitVec.eq_of_getLsbD_eq
    intro i hi
    simp only [BitVec.getLsbD_or, BitVec.getLsbD_and, BitVec.getLsbD_not, hi, decide_true, Bool.true_and]
    cases w.getLsbD i <;> cases (0x4000000#32).getLsbD i <;> rfl
  have k (i j : Nat) (hi : i < 8) (hj : j < 4) :
      (byteOf (w ||| 0x4000000#32) j).getLsbD i = ((byteOf w j).getLsbD i || (decide (j = 3) && decide (i = 2))) := by
    have c : ∀ j < 4, ∀ i < 8, (0x4000000#32).getLsbD (8 * j + i) = (decide (j = 3) && decide (i = 2)) := by decide
    simp only [byteOf, BitVec.getLsbD_extractLsb', BitVec.getLsbD_or, hi, decide_true, Bool.true_and, c j hj i hi]
  have four : ∀ i < 8, (4 : Byte).getLsbD i = decide (i = 2) := by decide
  rw [h]
  refine ⟨?_, ?_, ?_, ?_⟩ <;> apply BitVec.eq_of_getLsbD_eq <;> intro i hi <;> rw [k i _ hi (by decide)]
  · simp
  · simp
  · simp
  · rw [BitVec.getLsbD_or, four i hi]
    simp

theorem ofNat_byte (w : Word) (i : Nat) : BitVec.ofNat 8 (w.toNat / 256 ^ i) = byteOf w i := by
  apply BitVec.eq_of_toNat_eq
  simp only [byteOf, BitVec.extractLsb'_toNat, BitVec.toNat_ofNat, Nat.shiftRight_eq_div_pow]
  rw [Nat.pow_mul]

/-- Once: what reading a longword of main memory brings. -/
theorem physReadLong_bytes {io : Bool} {pa : Nat} {w : Word} {s t : State} (hp : pa < ioBase)
    (h : physReadLong io pa s = .ok w t) :
    s.memByte pa = some (byteOf w 0) ∧ s.memByte (pa + 1) = some (byteOf w 1) ∧
      s.memByte (pa + 2) = some (byteOf w 2) ∧ s.memByte (pa + 3) = some (byteOf w 3) := by
  unfold physReadLong at h
  rw [if_pos hp] at h
  obtain ⟨n, h1, e⟩ := map_ok h
  subst e
  have b := cpuLoad_bytes h1
  have same (i : Nat) (hi : i < 4) : BitVec.ofNat 8 (n / 256 ^ i) = byteOf (BitVec.ofNat 32 n) i := by
    have g := byte_of_nat n i hi
    apply BitVec.eq_of_toNat_eq
    simp only [byteOf, BitVec.extractLsb'_toNat, BitVec.toNat_ofNat, Nat.shiftRight_eq_div_pow]
    exact g
  exact ⟨(b 0 (by simp)).trans (congrArg some (same 0 (by omega))), (b 1 (by simp)).trans (congrArg some (same 1 (by omega))),
    (b 2 (by simp)).trans (congrArg some (same 2 (by omega))), (b 3 (by simp)).trans (congrArg some (same 3 (by omega)))⟩

/-- Setting a modify bit changes only that bit. -/
theorem setPteModify_same {pa : Nat} {s t : State} (hm : s.ipr.mapen = true) (hp : s.pteAt pa)
    (h : setPteModify false pa s = .ok () t) : SameMem s t := by
  have hk := (setPteModify_kept (io := false) (regs := []) pa).ok h
  obtain ⟨w, u, h1, h2⟩ := bind_ok h
  have lt := physReadLong_mem h1
  rw [if_pos lt] at h2
  have ku := (physReadLong_kept (io := false) (wr := false) (regs := []) pa).ok h1
  have same (x : Nat) : u.memByte x = s.memByte x := State.memByte_congr ku.cfg (ku.memctls rfl) (ku.mem rfl).1 x
  refine ⟨hk.cfg, by rw [hk.ipr], hk.memctls rfl, fun _ => hk.pteAt, hk.wf, fun wf p => ?_, hk.noErrs.1⟩
  have hn : [pa, pa + 1, pa + 2, pa + 3].Nodup := by simp
  obtain ⟨e1, e2⟩ := cpuStore_bytes hn (ku.wf wf) h2
  obtain ⟨o0, o1, o2, o3⟩ := physReadLong_bytes lt h1
  obtain ⟨b0, b1, b2, b3⟩ := byte_setBit26 w
  by_cases hx : p ∈ [pa, pa + 1, pa + 2, pa + 3]
  · simp only [List.mem_cons, List.not_mem_nil, or_false] at hx
    rcases hx with rfl | rfl | rfl | rfl
    · exact (e1 0 (by simp)).elim (fun e => .inl (by rw [o0, ← b0, ← ofNat_byte]; exact e)) fun e => .inl (e.2.trans (same _))
    · exact (e1 1 (by simp)).elim (fun e => .inl (by rw [o1, ← b1, ← ofNat_byte]; exact e)) fun e => .inl (e.2.trans (same _))
    · exact (e1 2 (by simp)).elim (fun e => .inl (by rw [o2, ← b2, ← ofNat_byte]; exact e)) fun e => .inl (e.2.trans (same _))
    · exact (e1 3 (by simp)).elim
        (fun e => .inr ⟨hm, by omega, hk.pteAt hp, _, o3, by rw [← b3, ← ofNat_byte]; exact e⟩) fun e => .inl (e.2.trans (same _))
  · exact .inl ((e2 p hx).trans (same p))

theorem setModifyAt_same {a : Nat} {s t : State} (hm : s.ipr.mapen = true) (hp : s.pteAt a)
    (h : setModifyAt false a s = .ok () t) : SameMem s t := by
  obtain ⟨⟨⟩, u, h1, h2⟩ := bind_ok h
  refine (setPteModify_same hm hp h1).trans ?_
  injection h2 with _ h2
  subst h2
  exact SameMem.ofKept (kept_tbModify (io := false) (regs := []) u a)

theorem setModify_same {e : TbEntry} {s t : State} (hm : s.ipr.mapen = true) (h : setModify false e s = .ok () t) :
    SameMem s t := by
  unfold setModify at h
  split at h
  · injection h with _ h
    subst h
    exact SameMem.refl _
  obtain ⟨⟨⟩, u, h1, h2⟩ := bind_ok h
  injection h1 with _ h1
  have hu : SameMem s u := h1 ▸ SameMem.ofKept (s.tbFill_kept (io := false) (regs := []) e)
  have hin : e ∈ u.tb := h1 ▸ s.mem_tbFill e
  obtain ⟨⟨⟩, v, h3, h4⟩ := bind_ok h2
  have hv := setModifyAt_same (hu.mapen.trans hm) ⟨e, hin, .inl rfl⟩ h3
  have huv := hu.trans hv
  refine huv.trans ?_
  cases hs : e.sys with
  | none =>
    rw [hs] at h4
    injection h4 with _ h4
    subst h4
    exact SameMem.refl _
  | some a =>
    rw [hs] at h4
    obtain ⟨too, w, h5, h6⟩ := bind_ok h4
    have hw : SameMem v w := SameMem.ofKept ((drawBit_kept (io := false) (regs := [])).ok h5)
    refine hw.trans ?_
    split at h6
    · exact setModifyAt_same (hw.mapen.trans (huv.mapen.trans hm)) (hw.pte _ (hv.pte _ ⟨e, hin, .inr hs⟩)) h6
    · injection h6 with _ h6
      subst h6
      exact SameMem.refl _

/-- Translation leaves every byte of memory but modify bits: for a write, where the page tables are in main memory. -/
theorem translate_same {io : Bool} {va : Word} {write : Bool} {mode : Mode} {s t : State} {pa : Nat}
    (hio : write = true → io = false) (h : translate io va write mode s = .ok pa t) : SameMem s t := by
  obtain ⟨_, u, h1, h2⟩ := bind_ok h
  injection h1 with ha hu
  subst ha hu
  by_cases hm : s.ipr.mapen = true
  · rw [if_neg (by simp [hm])] at h2
    obtain ⟨pte, v, g1, g2⟩ := bind_ok h2
    have hv : SameMem s v := SameMem.ofKept ((checkedPte_kept (io := io) (regs := []) _ _ _).ok g1)
    refine hv.trans ?_
    cases write
    · injection g2 with _ g2
      subst g2
      exact SameMem.refl _
    · obtain ⟨⟨⟩, x, g3, g4⟩ := bind_ok g2
      injection g4 with _ g4
      subst g4
      rw [hio rfl] at g3
      exact setModify_same (hv.mapen.trans hm) g3
  · rw [if_pos (by simp [hm])] at h2
    injection h2 with _ h2
    subst h2
    exact SameMem.refl _

theorem tryRaise_ok {α : Type} {x : M α} {f : Trap → M α} {s t : State} {a : α}
    (hf : ∀ e u v b, f e u ≠ .ok b v) (h : (tryCatch x f : M α) s = .ok a t) : x s = .ok a t := by
  change EStateM.tryCatch x f s = .ok a t at h
  simp only [EStateM.tryCatch] at h
  cases hx : x s with
  | ok b u =>
    rw [hx] at h
    exact h
  | error e u =>
    rw [hx] at h
    exact absurd h (hf _ _ _ _)

/-- Where a page faults, the modify bit of the other may be set, and the fault is raised. -/
theorem checkedTwo_fails {io write : Bool} {mode : Mode} (va : Word) (e : Trap) (u w : State) (b : TbEntry) : (do
    if write then maybeModify io va mode else pure ()
    raise e : M TbEntry) u ≠ .ok b w := by
  intro hr
  cases write
  · cases hr
  · obtain ⟨_, _, _, hr⟩ := bind_ok hr
    cases hr

/-- Once: two PTEs are read, each from memory that stays as it is. -/
theorem checkedTwo_same {io : Bool} {va va2 : Word} {write : Bool} {mode : Mode} {s t : State} {p : TbEntry × TbEntry}
    (h : checkedTwo io va va2 write mode s = .ok p t) : SameMem s t := by
  obtain ⟨p1, u, g1, g2⟩ := bind_ok h
  obtain ⟨p2, v, g3, g4⟩ := bind_ok g2
  injection g4 with _ g4
  subst g4
  exact (SameMem.ofKept ((checkedPte_kept (io := io) (regs := []) _ _ _).ok (tryRaise_ok (checkedTwo_fails va2) g1))).trans
    (SameMem.ofKept ((checkedPte_kept (io := io) (regs := []) _ _ _).ok (tryRaise_ok (checkedTwo_fails va) g3)))

theorem translateTwo_same {io : Bool} {va va2 : Word} {write : Bool} {mode : Mode} {s t : State} {p : Nat × Nat}
    (hio : write = true → io = false) (hm : s.ipr.mapen = true) (h : translateTwo io va va2 write mode s = .ok p t) :
    SameMem s t := by
  obtain ⟨p, v, g1, g4⟩ := bind_ok h
  have hv := checkedTwo_same g1
  refine hv.trans ?_
  have hvm : v.ipr.mapen = true := by rw [hv.mapen, hm]
  cases write
  · injection g4 with _ g4
    subst g4
    exact SameMem.refl _
  · obtain ⟨⟨⟩, x, g5, g6⟩ := bind_ok g4
    obtain ⟨⟨⟩, y, g7, g8⟩ := bind_ok g6
    injection g8 with _ g8
    subst g8
    rw [hio rfl] at g5 g7
    have hx := setModify_same hvm g5
    exact hx.trans (setModify_same (hx.mapen.trans hvm) g7)

theorem paRange_nodup {pa n : Nat} (hn : n ≤ 0x40000000) : (paRange pa n).Nodup := by
  simp only [paRange, List.Nodup, List.pairwise_map]
  refine List.Pairwise.imp_of_mem ?_ List.pairwise_lt_range
  intro a b ha hb hab e
  simp only [List.mem_range] at ha hb
  omega

theorem mem_paRange {pa n x : Nat} (h : x ∈ paRange pa n) : ∃ i, i < n ∧ x = (pa + i) % 0x40000000 := by
  simp only [paRange, List.mem_map, List.mem_range] at h
  obtain ⟨i, hi, e⟩ := h
  exact ⟨i, hi, e.symm⟩

theorem translate_ok_pa {io : Bool} {va : Word} {write : Bool} {mode : Mode} {s t : State} {pa : Nat} (hm : s.ipr.mapen = true)
    (h : translate io va write mode s = .ok pa t) : pa % 512 = vaOffset va ∧ pa < 0x40000000 := by
  obtain ⟨_, u, h1, h2⟩ := bind_ok h
  injection h1 with ha hu
  subst ha hu
  rw [if_neg (by simp [hm])] at h2
  obtain ⟨pte, v, g1, g2⟩ := bind_ok h2
  have : pa = ptePa pte.pte va := by
    cases write
    · injection g2 with e _
      exact e.symm
    · obtain ⟨_, _, _, g4⟩ := bind_ok g2
      injection g4 with e _
      exact e.symm
  subst this
  have h1 : vaOffset va < 512 := (va.setWidth 9).isLt
  have h2 : ptPfn pte.pte < 2097152 := (pte.pte.setWidth 21).isLt
  simp only [ptePa]
  omega

theorem translateTwo_ok_pa {io : Bool} {va va2 : Word} {write : Bool} {mode : Mode} {s t : State} {p : Nat × Nat}
    (h : translateTwo io va va2 write mode s = .ok p t) :
    ∃ a b, p = (ptePa a va, ptePa b va2) := by
  obtain ⟨⟨p1, p2⟩, v, g1, g4⟩ := bind_ok h
  refine ⟨p1.pte, p2.pte, ?_⟩
  cases write
  · injection g4 with e _
    exact e.symm
  · obtain ⟨_, _, _, g6⟩ := bind_ok g4
    obtain ⟨_, _, _, g8⟩ := bind_ok g6
    injection g8 with e _
    exact e.symm

theorem vaOffset_next (va : Word) : vaOffset (va + BitVec.ofNat 32 (512 - vaOffset va)) = 0 := by
  have e : va.toNat % 512 = vaOffset va := by
    simp only [vaOffset, BitVec.toNat_setWidth]
  have h : vaOffset va < 512 := (va.setWidth 9).isLt
  have := va.isLt
  simp only [vaOffset, BitVec.toNat_setWidth, BitVec.toNat_add, BitVec.toNat_ofNat, Nat.reducePow] at *
  omega

/-- Once: what translating the addresses of an operand gives, and what it does to memory. -/
theorem translateRange_spec {io : Bool} {va : Word} {n : Nat} {write : Bool} {mode : Mode} {s t : State} {pas : List Nat}
    (hn : n ≤ 512) (hio : write = true → io = false) (h : translateRange io va n write mode s = .ok pas t) :
    SameMem s t ∧ pas.Nodup ∧ pas.length = n := by
  obtain ⟨_, u, h1, h2⟩ := bind_ok h
  injection h1 with ha hu
  subst ha hu
  have len (p k : Nat) : (paRange p k).length = k := by simp [paRange]
  by_cases hm : s.ipr.mapen = true
  · rw [if_neg (by simp [hm])] at h2
    dsimp only at h2
    split at h2
    · obtain ⟨pa, v, g1, g2⟩ := bind_ok h2
      injection g2 with e1 e2
      subst e1 e2
      exact ⟨translate_same hio g1, paRange_nodup (by omega), len _ _⟩
    · next hf =>
      obtain ⟨p, v, g1, g2⟩ := bind_ok h2
      obtain ⟨a, b, rfl⟩ := translateTwo_ok_pa g1
      injection g2 with e1 e2
      subst e1 e2
      refine ⟨translateTwo_same hio hm g1, ?_, by simp [len]; omega⟩
      have h1 : vaOffset va < 512 := (va.setWidth 9).isLt
      refine List.nodup_append.2 ⟨paRange_nodup (by omega), paRange_nodup (by omega), ?_⟩
      intro x hx y hy e
      obtain ⟨i, hi, rfl⟩ := mem_paRange hx
      obtain ⟨j, hj, rfl⟩ := mem_paRange hy
      simp only [ptePa, vaOffset_next] at e
      omega
  · rw [if_pos (by simp [hm])] at h2
    injection h2 with e1 e2
    subst e1 e2
    exact ⟨SameMem.refl _, paRange_nodup (by omega), len _ _⟩

/-! ### Page tables in main memory -/

/-- Where x ends well, so does y, and alike. -/
def Agrees {α : Type} (x y : M α) : Prop := ∀ s a t, x s = .ok a t → y s = .ok a t

theorem Agrees.refl {α : Type} (x : M α) : Agrees x x := fun _ _ _ h => h

theorem Agrees.bind {α β : Type} {x y : M α} {f g : α → M β} (h : Agrees x y) (k : ∀ a, Agrees (f a) (g a)) :
    Agrees (x >>= f) (y >>= g) := fun _ _ _ e => by
  obtain ⟨a, u, h1, h2⟩ := bind_ok e
  rw [bind_of_ok (h _ _ _ h1)]
  exact k _ _ _ _ h2

theorem Agrees.ite {α : Type} {c : Prop} [Decidable c] {x y x' y' : M α} (h : Agrees x x') (k : Agrees y y') :
    Agrees (if c then x else y) (if c then x' else y') := by
  split
  · exact h
  · exact k

/-- A handler that always raises changes no good end. -/
theorem Agrees.guarded {α : Type} {x y : M α} {f g : Trap → M α} (h : Agrees x y) (hf : ∀ e u v b, f e u ≠ .ok b v) :
    Agrees (tryCatch x f) (tryCatch y g) := fun s a t e => by
  have hy := h _ _ _ (tryRaise_ok hf e)
  show EStateM.tryCatch y g s = _
  simp only [EStateM.tryCatch, hy]

theorem physReadLong_agrees (pa : Nat) : Agrees (physReadLong false pa) (physReadLong true pa) := fun s a t h => by
  unfold physReadLong at h ⊢
  split at h
  · next hp =>
    rw [if_pos hp]
    exact h
  · obtain ⟨_, u, _, h2⟩ := bind_ok h
    split at h2 <;> cases h2

theorem tbOr_agrees {α : Type} (va : Word) (hit : TbEntry → α) {x y : M α} (h : Agrees x y) :
    Agrees (tbOr va hit x) (tbOr va hit y) := by
  refine Agrees.bind (Agrees.refl _) fun s => Agrees.bind (Agrees.refl _) fun old => ?_
  cases old with
  | some e => exact Agrees.refl _
  | none =>
    dsimp only
    split
    · exact Agrees.refl _
    · exact h

theorem checkedPte_agrees (va : Word) (write : Bool) (mode : Mode) :
    Agrees (checkedPte false va write mode) (checkedPte true va write mode) := by
  have system (va : Word) : Agrees (fetchSystemPte false va) (fetchSystemPte true va) :=
    Agrees.bind (Agrees.refl _) fun _ => Agrees.bind (physReadLong_agrees _) fun _ => Agrees.refl _
  have table : Agrees (pageTablePte false va write) (pageTablePte true va write) :=
    Agrees.bind (Agrees.refl _) fun _ => Agrees.ite (Agrees.refl _)
      (Agrees.bind (tbOr_agrees _ _ (system _)) fun _ => Agrees.refl _)
  have process (e : TbEntry) : Agrees (fetchProcessPte false va e) (fetchProcessPte true va e) :=
    Agrees.bind (Agrees.refl _) fun _ => Agrees.bind (physReadLong_agrees _) fun _ => Agrees.refl _
  refine Agrees.bind (Agrees.refl _) fun _ => Agrees.ite (Agrees.refl _) (Agrees.bind ?_ fun _ => Agrees.refl _)
  exact tbOr_agrees _ _ (Agrees.ite (system _) (Agrees.bind table fun _ => process _))

theorem setPteModify_agrees (pa : Nat) : Agrees (setPteModify false pa) (setPteModify true pa) := by
  by_cases hp : pa < ioBase
  · refine Agrees.bind (physReadLong_agrees pa) fun _ => ?_
    rw [if_pos hp]
    exact Agrees.refl _
  · intro s a t h
    obtain ⟨w, u, h1, -⟩ := bind_ok h
    exact absurd (physReadLong_mem h1) hp

theorem setModify_agrees (e : TbEntry) : Agrees (setModify false e) (setModify true e) := by
  have at_ (a : Nat) : Agrees (setModifyAt false a) (setModifyAt true a) :=
    Agrees.bind (setPteModify_agrees a) fun _ => Agrees.refl _
  refine Agrees.ite (Agrees.refl _) (Agrees.bind (Agrees.refl _) fun _ => Agrees.bind (at_ _) fun _ => ?_)
  cases e.sys with
  | none => exact Agrees.refl _
  | some a => exact Agrees.bind (Agrees.refl _) fun _ => Agrees.ite (at_ a) (Agrees.refl _)

theorem translate_agrees (va : Word) (write : Bool) (mode : Mode) :
    Agrees (translate false va write mode) (translate true va write mode) :=
  Agrees.bind (Agrees.refl _) fun _ => Agrees.ite (Agrees.refl _)
    (Agrees.bind (checkedPte_agrees _ _ _) fun _ =>
      Agrees.ite (Agrees.bind (setModify_agrees _) fun _ => Agrees.refl _) (Agrees.refl _))

theorem checkedTwo_agrees (va va2 : Word) (write : Bool) (mode : Mode) :
    Agrees (checkedTwo false va va2 write mode) (checkedTwo true va va2 write mode) :=
  Agrees.bind (Agrees.guarded (checkedPte_agrees _ _ _) (checkedTwo_fails _)) fun _ =>
    Agrees.bind (Agrees.guarded (checkedPte_agrees _ _ _) (checkedTwo_fails _)) fun _ => Agrees.refl _

theorem translateTwo_agrees (va va2 : Word) (write : Bool) (mode : Mode) :
    Agrees (translateTwo false va va2 write mode) (translateTwo true va va2 write mode) := by
  refine Agrees.bind (checkedTwo_agrees _ _ _ _) fun _ => ?_
  exact Agrees.ite (Agrees.bind (setModify_agrees _) fun _ => Agrees.bind (setModify_agrees _) fun _ => Agrees.refl _)
    (Agrees.refl _)

/-- An address whose page tables are in main memory translates alike where tables may lie in I/O space too. -/
theorem translateRange_agrees (va : Word) (n : Nat) (write : Bool) (mode : Mode) :
    Agrees (translateRange false va n write mode) (translateRange true va n write mode) :=
  Agrees.bind (Agrees.refl _) fun _ => Agrees.ite (Agrees.refl _)
    (Agrees.ite (Agrees.bind (translate_agrees _ _ _) fun _ => Agrees.refl _)
      (Agrees.bind (translateTwo_agrees _ _ _ _) fun _ => Agrees.refl _))

theorem translateRange_any {io : Bool} {va : Word} {n : Nat} {write : Bool} {mode : Mode} {s t : State} {pas : List Nat}
    (h : translateRange false va n write mode s = .ok pas t) : translateRange io va n write mode s = .ok pas t := by
  cases io
  · exact h
  · exact translateRange_agrees _ _ _ _ _ _ _ h

/-! ### Virtual memory -/

/-- Once: what a store to virtual memory does to the bytes of a main memory without errors. -/
theorem storeVirtIn_bytes {mode : Mode} {io ilk : Bool} {va : Word} {n v : Nat} {s u t : State} {pas : List Nat}
    (hn : n ≤ 512) (h : storeVirtIn mode io ilk va n v s = .ok () t)
    (ht : translateRange false va n true mode s = .ok pas u) (hio : touchesIo pas = false) (wf : Memory.wf s.mem = true)
    (he : s.errs.memory = []) :
    pas.length = n ∧ (∀ i (hi : i < pas.length), t.memByte pas[i] = some (BitVec.ofNat 8 (v / 256 ^ i))) ∧
      SameBytesBut pas s t := by
  obtain ⟨q, x, g1, g2⟩ := bind_ok h
  rw [translateRange_any ht] at g1
  injection g1 with e1 e2
  subst e1 e2
  obtain ⟨sm, nd, len⟩ := translateRange_spec hn (fun _ => rfl) ht
  obtain ⟨b1, b2⟩ := physStore_memByte nd hio (sm.wf wf) (sm.errs he) g2
  have sP : ∀ x, State.pteAt _ x → t.pteAt x := fun _ => ((physStore_kept (regs := []) io ilk _ v).ok g2).pteAt
  exact ⟨len, b1, fun pa hpa => SameByte.trans sm.mapen sP (sm.byte wf pa) (.inl (b2 pa hpa))⟩

/-- Reading virtual memory leaves every byte of memory but modify bits: for a modify operand, where its page tables are in main
memory. -/
theorem loadVirtIn_same {mode : Mode} {io ilk intent : Bool} {va : Word} {n v : Nat} {s t : State} (hn : n ≤ 512)
    (hio : intent = true → io = false) (h : loadVirtIn mode io ilk intent va n s = .ok v t) : SameMem s t := by
  obtain ⟨pas, u, h1, h2⟩ := bind_ok h
  exact (translateRange_spec hn hio h1).1.trans (SameMem.ofKept ((physLoad_kept (regs := []) io ilk pas).ok h2))

end Sys2Proof.Machine
end

