-- ==== Sys2Proof/Laws/Shapes.lean ====
section
/-! SUPPORT. How the shapes of integer instructions complete: operands evaluated, a result stored, condition codes set. -/
namespace Sys2Proof.Machine
open Sys2Proof

/-! ### PC -/

theorem unpredictable_run {α : Type} {s t : State} {a : α} : (unpredictable : M α) s ≠ .ok a t := fun h => by cases h

theorem ite_raise_ok {α : Type} {c : Prop} [Decidable c] {e : Trap} {m : M α} {s t : State} {a : α}
    (h : (if c then raise e else m) s = .ok a t) : ¬c ∧ m s = .ok a t := by
  by_cases hc : c
  · rw [if_pos hc] at h
    cases h
  · rw [if_neg hc] at h
    exact ⟨hc, h⟩

/-- No specifier that is evaluated steps PC. -/
theorem evalBase_steps {size : Nat} {io : Bool} {b : BaseSpec} {s t : State} {a : Word}
    (h : evalBase size io b s = .ok a t) : rPC ∉ b.stepped := by
  cases b <;> simp only [BaseSpec.stepped, List.not_mem_nil, not_false_eq_true, List.mem_singleton]
  all_goals
    intro e
    exact (ite_raise_ok h).1 e.symm

theorem evalBase_pc {size : Nat} {io : Bool} {b : BaseSpec} {s t : State} {a : Word}
    (h : evalBase size io b s = .ok a t) : t.pc = s.pc :=
  ((evalBase_kept (wr := false) (regs := b.stepped) size io b fun _ => id).ok h).reg rPC (evalBase_steps h)

/-- Evaluating the check on SP changes nothing. -/
theorem checkSp_ok {α : Type} {size : Nat} {b : BaseSpec} {m : M α} {s t : State} {a : α}
    (h : (do checkSp size b; m : M α) s = .ok a t) : m s = .ok a t := by
  obtain ⟨_, u, h1, h2⟩ := bind_ok h
  obtain ⟨_, v, h3, h4⟩ := bind_ok h1
  injection h3 with e1 e2
  subst e1 e2
  obtain ⟨_, h4⟩ := ite_raise_ok h4
  injection h4 with _ e
  exact e ▸ h2

/-- Evaluating a specifier moves PC past it. -/
theorem locate_pc {acc : Access} {ty : DType} {io : Bool} {sp : Spec} {s t : State} {l : Loc}
    (h : locate acc ty io sp s = .ok l t) : t.pc = s.pc + BitVec.ofNat 32 (sp.length ty) := by
  obtain ⟨_, u, h1, h2⟩ := bind_ok h
  injection h1 with _ hu
  have hpc : u.pc = s.pc + BitVec.ofNat 32 (sp.length ty) := by
    rw [← hu]
    exact State.reg_setReg_same _ _ _
  refine Eq.trans ?_ hpc
  cases sp with
  | lit v =>
    simp only at h2
    split at h2
    · injection h2 with _ e
      rw [e]
    · cases h2
  | reg n =>
    obtain ⟨_, h2⟩ := ite_raise_ok h2
    obtain ⟨_, h2⟩ := ite_raise_ok h2
    injection h2 with _ e
    rw [e]
  | base b =>
    have hb (io' : Bool) (h : (Loc.mem <$> evalBase ty.size io' b : M Loc) u = .ok l t) : t.pc = u.pc := by
      obtain ⟨a, ha, _⟩ := map_ok h
      exact evalBase_pc ha
    cases b
    case imm v =>
      obtain ⟨_, h2⟩ := ite_raise_ok h2
      split at h2
      · injection h2 with _ e
        rw [e]
      · exact hb _ h2
    all_goals exact hb _ (checkSp_ok h2)
  | index x b =>
    obtain ⟨_, h2⟩ := ite_raise_ok h2
    obtain ⟨_, h2⟩ := ite_raise_ok h2
    obtain ⟨a, v, h3, h4⟩ := bind_ok (checkSp_ok h2)
    obtain ⟨r, w, h5, h6⟩ := bind_ok h4
    injection h5 with _ e5
    injection h6 with _ e6
    rw [← e6, ← e5]
    exact evalBase_pc h3
  | indexBad x b => cases h2

/-- What leaves no register out keeps PC. -/
theorem Keeps.pc {α : Type} {io wr : Bool} {m : M α} (h : Keeps (Kept io wr []) m) {s t : State} {a : α}
    (hr : m s = .ok a t) : t.pc = s.pc := (h.ok hr).reg rPC (List.not_mem_nil)

theorem loadLoc_pc {w : Nat} {io ilk intent : Bool} {l : Loc} {s t : State} {v : BitVec w}
    (h : loadLoc w io ilk intent l s = .ok v t) : t.pc = s.pc :=
  Keeps.pc (loadLoc_kept (wr := true) w io ilk l fun _ _ => rfl) h

theorem readInt_pc {w : Nat} {io : Bool} {sp : Spec} {s t : State} {v : BitVec w} (h : readInt w io sp s = .ok v t) :
    t.pc = s.pc + BitVec.ofNat 32 (sp.length (intType w)) := by
  obtain ⟨l, u, h1, h2⟩ := bind_ok h
  rw [loadLoc_pc h2, locate_pc h1]

theorem modifyOp_pc {w : Nat} {io : Bool} {sp : Spec} {s t : State} {l : Loc} {v : BitVec w}
    (h : modifyOp w sp io s = .ok (l, v) t) :
    t.pc = s.pc + BitVec.ofNat 32 (sp.length (intType w)) := by
  obtain ⟨l, u, h1, h2⟩ := bind_ok h
  obtain ⟨v, x, h3, h4⟩ := bind_ok h2
  injection h4 with _ e
  rw [← e, loadLoc_pc h3, locate_pc h1]

/-- A place a specifier of write or modify access names is not in PC. -/
theorem locate_reg_pc {acc : Access} {ty : DType} {io : Bool} {sp : Spec} {s t : State} {n : Reg}
    (h : locate acc ty io sp s = .ok (.reg n) t) : n ≠ rPC ∧ (ty.size = 8 → n ≠ rSP) := by
  obtain ⟨_, u, h1, h2⟩ := bind_ok h
  cases sp with
  | lit v =>
    simp only at h2
    split at h2
    · injection h2 with e _
      cases e
    · cases h2
  | reg m =>
    obtain ⟨_, h2⟩ := ite_raise_ok h2
    obtain ⟨hn, h2⟩ := ite_raise_ok h2
    injection h2 with e _
    injection e with e
    subst e
    exact ⟨fun e => hn (.inl e), fun h8 e => hn (.inr ⟨e, h8⟩)⟩
  | base b =>
    have hb (io' : Bool) (h : (Loc.mem <$> evalBase ty.size io' b : M Loc) u = .ok (.reg n) t) : False := by
      obtain ⟨a, _, e⟩ := map_ok h
      cases e
    cases b
    case imm v =>
      obtain ⟨_, h2⟩ := ite_raise_ok h2
      split at h2
      · injection h2 with e _
        cases e
      · exact (hb _ h2).elim
    all_goals exact (hb _ (checkSp_ok h2)).elim
  | index x b =>
    obtain ⟨_, h2⟩ := ite_raise_ok h2
    obtain ⟨_, h2⟩ := ite_raise_ok h2
    obtain ⟨a, v, h3, h4⟩ := bind_ok (checkSp_ok h2)
    obtain ⟨r, w, h5, h6⟩ := bind_ok h4
    injection h6 with e _
    cases e
  | indexBad x b => cases h2

/-! ### Fields of words -/

theorem getLsbD_allOnes_setWidth {n w i : Nat} (h : i < n) : ((BitVec.allOnes w).setWidth n).getLsbD i = decide (i < w) := by
  simp [h]

/-- The bits of a word with a field replaced. -/
theorem getLsbD_setField {n w : Nat} (x : BitVec n) (lo : Nat) (v : BitVec w) {i : Nat} (h : i < n) :
    (setField x lo v).getLsbD i = if lo ≤ i ∧ i < lo + w then v.getLsbD (i - lo) else x.getLsbD i := by
  simp only [setField, BitVec.getLsbD_or, BitVec.getLsbD_and, BitVec.getLsbD_not, BitVec.getLsbD_shiftLeft,
    BitVec.getLsbD_setWidth, h, decide_true, Bool.true_and]
  by_cases hlo : i < lo
  · have : ¬lo ≤ i := by omega
    simp [hlo, this]
  · have hi : lo ≤ i := by omega
    have hin : i - lo < n := by omega
    by_cases hw : i - lo < w
    · have : i < lo + w := by omega
      simp [hlo, hi, hin, hw, this]
    · have : ¬i < lo + w := by omega
      have hv : v.getLsbD (i - lo) = false := BitVec.getLsbD_of_ge v _ (by omega)
      simp [hlo, this, hw, hv]

theorem setField_low {n w : Nat} (x : BitVec n) (v : BitVec w) (h : w ≤ n) : (setField x 0 v).setWidth w = v := by
  apply BitVec.eq_of_getLsbD_eq
  intro i hi
  rw [BitVec.getLsbD_setWidth, getLsbD_setField x 0 v (by omega)]
  simp [hi]

theorem setField_high {n w : Nat} (x : BitVec n) (v : BitVec w) : setField x 0 v >>> w = x >>> w := by
  apply BitVec.eq_of_getLsbD_eq
  intro i hi
  simp only [BitVec.getLsbD_ushiftRight]
  by_cases h : w + i < n
  · rw [getLsbD_setField x 0 v h, if_neg (by omega)]
  · rw [BitVec.getLsbD_of_ge _ _ (by omega), BitVec.getLsbD_of_ge _ _ (by omega)]

/-- The condition codes leave every other bit of the PSL. -/
theorem State.pslBit_setCC (s : State) (f : CC) {i : Nat} (h : 4 ≤ i) : (s.setCC f).pslBit i = s.pslBit i := by
  simp only [State.pslBit, State.setCC_psl]
  by_cases hi : i < 32
  · rw [getLsbD_setField _ _ _ hi, if_neg (by omega)]
  · rw [BitVec.getLsbD_of_ge _ _ (by omega), BitVec.getLsbD_of_ge _ _ (by omega)]

theorem ofNat_byteOf {w : Nat} (r : BitVec w) (i : Nat) : BitVec.ofNat 8 (r.toNat / 256 ^ i) = byteOf r i := by
  apply BitVec.eq_of_toNat_eq
  simp only [byteOf, BitVec.extractLsb'_toNat, BitVec.toNat_ofNat, Nat.shiftRight_eq_div_pow]
  rw [Nat.pow_mul]

/-! ### A result stored -/

theorem Reg.next_ne (n : Reg) : n + 1 ≠ n := by
  revert n
  decide

theorem Reg.eq_sp_of_next {n : Reg} : n + 1 = rPC → n = rSP := by
  revert n
  decide

/-- A value written to a register (and the next) reads back; a byte or word leaves the register's other bits. -/
theorem State.setRegValue_spec (s : State) {w : Nat} (n : Reg) (r : BitVec w) (hw : w ≤ 32 ∨ w = 64) :
    (s.setRegValue n r).regValue w n = r ∧ (w < 32 → (s.setRegValue n r).reg n >>> w = s.reg n >>> w) := by
  by_cases h : w ≤ 32
  · simp only [State.setRegValue, State.regValue, if_pos h, State.reg_setReg_same]
    exact ⟨setField_low _ _ h, fun _ => setField_high _ _⟩
  · obtain rfl : w = 64 := by omega
    refine ⟨?_, fun e => by omega⟩
    simp only [State.setRegValue, State.regValue, if_neg h, State.reg_setReg_same,
      State.reg_setReg_ne _ (Reg.next_ne n).symm]
    apply BitVec.eq_of_getLsbD_eq
    intro i hi
    simp only [BitVec.setWidth_eq, BitVec.getLsbD_append, BitVec.getLsbD_setWidth, BitVec.getLsbD_extractLsb']
    by_cases h : i < 32
    · simp [h]
    · simp [h, show i - 32 < 32 by omega, show 32 + (i - 32) = i by omega]

/-- Once: what storing a result does. -/
theorem storeLoc_stored {w : Nat} {io ilk : Bool} {l : Loc} {r : BitVec w} {s u t : State} (hw : w ≤ 32 ∨ w = 64)
    (hs : SameMem s u) (h : storeLoc io ilk l r u = .ok () t) : Stored l r s u t := by
  cases l with
  | const v => cases h
  | reg n =>
    injection h with _ e
    subst e
    exact u.setRegValue_spec n r hw
  | mem ea =>
    intro pas v ht hio wf he
    obtain ⟨_, x, h1, h2⟩ := bind_ok h
    injection h1 with e1 e2
    subst e1 e2
    obtain ⟨len, b1, b2⟩ := storeVirtIn_bytes (by omega) h2 ht hio (hs.wf wf) (hs.errs he)
    have grow (x : Nat) : State.pteAt _ x → t.pteAt x := ((storeVirtIn_kept (regs := []) _ io ilk ea _ _).ok h2).pteAt
    refine ⟨len, fun i hi => (b1 i hi).trans (congrArg some (ofNat_byteOf r i)), fun pa hpa => ?_⟩
    exact SameByte.trans hs.mapen grow (hs.byte wf pa) (b2 pa hpa)

theorem storeLoc_pc {w : Nat} {io ilk : Bool} {l : Loc} {r : BitVec w} {u t : State}
    (hl : ∀ n, l = .reg n → n ≠ rPC ∧ (32 < w → n ≠ rSP)) (h : storeLoc io ilk l r u = .ok () t) : t.pc = u.pc := by
  refine ((storeLoc_kept (wr := true) (regs := l.regs w) io ilk l r (fun _ => rfl) fun _ => id).ok h).reg rPC ?_
  cases l with
  | reg n =>
    obtain ⟨h1, h2⟩ := hl n rfl
    simp only [Loc.regs]
    split
    · simp [Ne.symm h1]
    · have h3 := h2 (by omega)
      simp only [List.mem_cons, List.not_mem_nil, or_false, not_or]
      exact ⟨Ne.symm h1, fun e => h3 (Reg.eq_sp_of_next e.symm)⟩
  | _ => simp [Loc.regs]

/-! ### Ends of instructions -/

/-- What a result and a wanted one have in common. -/
def IntResult.is {w : Nat} (y : IntResult w) (x : Want w) : Prop := y.r = x.r ∧ y.cc = x.cc ∧ y.divZero = x.divZero

theorem IntResult.finish_run {w : Nat} {y : IntResult w} {x : Want w} (h : y.is x) (t : State) :
    y.finish t = .ok (match x.trap (t.pslBit pslIV) with
      | none => .done
      | some c => .trap c) (t.setCC x.cc) := by
  obtain ⟨_, h2, h3⟩ := h
  unfold IntResult.finish Want.trap
  rw [h2, h3]
  cases hd : x.divZero
  · show finishInt x.cc t = _
    have e : (t.setCC x.cc).psl.getLsbD pslIV = t.pslBit pslIV := t.pslBit_setCC x.cc (by decide)
    simp only [finishInt, putCC, bind_of_ok (modify_run _ t)]
    show EStateM.Result.ok (if (x.cc.v && (t.setCC x.cc).psl.getLsbD pslIV) = true then _ else _) _ = _
    rw [e]
    cases x.cc.v && t.pslBit pslIV <;> rfl
  · rfl

/-- An instruction whose meaning, run from its first operand on, stores a result at l by st and ends. -/
theorem completed_by {w : Nat} {i : Instr} {io : Bool} {sps : List Spec} {x : Want w} {y : IntResult w} {l : Loc}
    {m : M Completion} {st : BitVec w → M Unit} {s u t : State} {p : Prop} (hy : y.is x)
    (hi : exec i s = runInstr s m) (hm : m s.opened = (do st y.r; y.finish : M Completion) u)
    (hst : st x.r u = .ok () t) (hut : Kept io l.writes (l.regs w) u t) (htpc : t.pc = u.pc)
    (hpc : u.pc = s.pc + BitVec.ofNat 32 i.length)
    (hk : Kept io l.writes (rPC :: sps.flatMap Spec.stepped) s u) (hs : p → Stored l x.r s u t) :
    Completed i io sps x l s u t p := by
  have hkt : Kept io l.writes (rPC :: sps.flatMap Spec.stepped ++ l.regs w) s t :=
    (hk.weaken id id fun n hn => List.mem_append_left _ hn).trans (hut.weaken id id fun n hn => List.mem_append_right _ hn)
  have hiv : t.pslBit pslIV = s.pslBit pslIV := by
    simp only [State.pslBit, hkt.psl]
  have hrun : m s.opened = .ok (match x.trap (s.pslBit pslIV) with
      | none => .done
      | some c => .trap c) (t.setCC x.cc) := by
    rw [hm, bind_of_ok (by rw [hy.1]; exact hst), IntResult.finish_run hy, hiv]
  have hexec : exec i s = match (match x.trap (s.pslBit pslIV) with
      | none => Completion.done
      | some c => .trap c) with
      | .done => .next (t.setCC x.cc)
      | .trap code => initiate ⟨0x34, [code], t.pc, (t.setCC x.cc).psl, none, none⟩ (t.setCC x.cc) := by
    rw [hi]
    unfold runInstr
    have e : m (s.setPc (s.pc + 1)) = _ := hrun
    rw [e]
    cases x.trap (s.pslBit pslIV) <;> rfl
  exact ⟨fun e => by rw [hexec, e], fun code e => by rw [hexec, e], by rw [htpc, hpc], hkt, hs⟩

/-- The same, the result stored by one reference. -/
theorem completed_of {w : Nat} {i : Instr} {io ilk io' : Bool} {sps : List Spec} {x : Want w} {y : IntResult w} {l : Loc}
    {m : M Completion} {s u t : State} {p : Prop} (hw : w ≤ 32 ∨ w = 64) (hy : y.is x)
    (hi : exec i s = runInstr s m) (hm : m s.opened = (do storeLoc io' ilk l y.r; y.finish : M Completion) u)
    (hl : ∀ n, l = .reg n → n ≠ rPC ∧ (32 < w → n ≠ rSP))
    (hst : storeLoc io' ilk l x.r u = .ok () t) (hio : io' = true → io = true)
    (hpc : u.pc = s.pc + BitVec.ofNat 32 i.length)
    (hk : Kept io l.writes (rPC :: sps.flatMap Spec.stepped) s u) (hs : p → SameMem s u) :
    Completed i io sps x l s u t p :=
  completed_by (st := storeLoc io' ilk l) hy hi hm hst
    (((storeLoc_kept io' ilk l x.r id fun _ => id).ok hst).weaken hio id fun _ => id) (storeLoc_pc hl hst) hpc hk
    fun e => storeLoc_stored hw (hs e) hst

/-- Once: the write half of a modify operand stores it, and may clear flip-flops of UNIBUS adapters. -/
theorem storeBack_spec {w : Nat} {l : Loc} {r : BitVec w} {io : Bool} {u t : State} (h : storeBack l r io u = .ok () t) :
    ∃ x, storeLoc io (interlocks w) l r u = .ok () x ∧ (t = x ∨ io = true ∧ t = x.endDatip) := by
  obtain ⟨⟨⟩, x, h1, h2⟩ := bind_ok h
  refine ⟨x, h1, ?_⟩
  split at h2
  · next e =>
    injection h2 with _ h2
    simp only [Bool.and_eq_true] at e
    exact .inr ⟨e.1, h2.symm⟩
  · injection h2 with _ h2
    exact .inl h2.symm

theorem endDatip_kept {wr : Bool} {regs : List Reg} (s : State) : Kept true wr regs s s.endDatip := kept_bus rfl rfl

/-- The same as completed_of, the result stored by the write half of a modify operand. -/
theorem completed_back {w : Nat} {i : Instr} {io : Bool} {sps : List Spec} {x : Want w} {y : IntResult w} {l : Loc}
    {m : M Completion} {s u t : State} {p : Prop} (hw : w ≤ 32 ∨ w = 64) (hy : y.is x)
    (hi : exec i s = runInstr s m) (hm : m s.opened = (do storeBack l y.r io; y.finish : M Completion) u)
    (hl : ∀ n, l = .reg n → n ≠ rPC ∧ (32 < w → n ≠ rSP)) (hst : storeBack l x.r io u = .ok () t)
    (hpc : u.pc = s.pc + BitVec.ofNat 32 i.length)
    (hk : Kept io l.writes (rPC :: sps.flatMap Spec.stepped) s u) (hs : p → SameMem s u) :
    Completed i io sps x l s u t p := by
  obtain ⟨v, hv, e⟩ := storeBack_spec hst
  have kv := (storeLoc_kept (regs := l.regs w) io (interlocks w) l x.r id fun _ => id).ok hv
  have pv := storeLoc_pc hl hv
  have sv (e : p) := storeLoc_stored hw (hs e) hv
  refine completed_by (st := fun r => storeBack l r io) hy hi hm hst ?_ ?_ hpc hk fun q => ?_
  · obtain rfl | ⟨rfl, rfl⟩ := e
    · exact kv
    · exact kv.trans (endDatip_kept v)
  · obtain rfl | ⟨-, rfl⟩ := e <;> exact pv
  · obtain rfl | ⟨-, rfl⟩ := e
    · exact sv q
    · have := sv q
      cases l <;> exact this

/-! ### Operands -/

theorem opened_pc (s : State) : s.opened.pc = s.pc + 1 := State.reg_setReg_same _ _ _

theorem opened_kept {io wr : Bool} {regs : List Reg} (s : State) (h : rPC ∈ regs) : Kept io wr regs s s.opened :=
  kept_reg s _ h

theorem stepped_mem {sps : List Spec} {sp : Spec} (h : sp ∈ sps) :
    ∀ n ∈ sp.stepped, n ∈ rPC :: sps.flatMap Spec.stepped :=
  fun _ hn => List.mem_cons_of_mem _ (List.mem_flatMap.2 ⟨sp, h, hn⟩)

theorem readOp_frame {w : Nat} {io io' wr : Bool} {sps : List Spec} {sp : Spec} (hsp : sp ∈ sps)
    (hio : io' = true → io = true) {s t : State} {v : BitVec w} (h : readOp w sp io' s = .ok v t) :
    Kept io wr (rPC :: sps.flatMap Spec.stepped) s t :=
  ((readOp_kept w sp (List.mem_cons_self ..) (stepped_mem hsp)).ok h).weaken hio id fun _ => id

theorem writeOp_frame {w : Nat} {io io' wr : Bool} {sps : List Spec} {sp : Spec} (hsp : sp ∈ sps)
    (hio : io' = true → io = true) {s t : State} {l : Loc} (h : writeOp w sp io' s = .ok l t) :
    Kept io wr (rPC :: sps.flatMap Spec.stepped) s t :=
  ((writeOp_kept w sp (List.mem_cons_self ..) (stepped_mem hsp)).ok h).weaken hio id fun _ => id

/-- Reading a place found through page tables in main memory leaves every byte of memory but modify bits. -/
theorem loadVirtIn_mapped {io ilk : Bool} {ea : Word} {n v : Nat} {s t u : State} {pas : List Nat} (hn : n ≤ 512)
    (ht : translateRange false ea n true s.cur s = .ok pas u) (h : loadVirtIn s.cur io ilk true ea n s = .ok v t) :
    SameMem s t := by
  obtain ⟨q, x, h1, h2⟩ := bind_ok h
  rw [translateRange_any ht] at h1
  injection h1 with e1 e2
  subst e1 e2
  exact (translateRange_spec hn (fun _ => rfl) ht).1.trans (SameMem.ofKept ((physLoad_kept (regs := []) io ilk _).ok h2))

/-- Once: what a modify operand does. -/
theorem modifyOp_spec {w : Nat} (hw : w / 8 ≤ 512) {io io' : Bool} {sps : List Spec} {sp : Spec} (hsp : sp ∈ sps)
    (hio : io' = true → io = true) {s t : State} {l : Loc} {v : BitVec w} (h : modifyOp w sp io' s = .ok (l, v) t) :
    Kept io l.writes (rPC :: sps.flatMap Spec.stepped) s t ∧ (ModifyMapped w io' sp s → SameMem s t) ∧
      ∀ n, l = .reg n → n ≠ rPC ∧ ((intType w).size = 8 → n ≠ rSP) := by
  obtain ⟨l, u, h1, h2⟩ := bind_ok h
  obtain ⟨v, x, h3, h4⟩ := bind_ok h2
  injection h4 with e1 e2
  injection e1 with e3 e4
  subst e2 e3 e4
  have k1 {wr : Bool} : Kept io wr (rPC :: sps.flatMap Spec.stepped) s u :=
    ((locate_kept _ _ _ _ (List.mem_cons_self ..) (stepped_mem hsp)).ok h1).weaken hio id fun _ => id
  have k2 : Kept io l.writes (rPC :: sps.flatMap Spec.stepped) u x :=
    ((loadLoc_kept _ _ _ l fun _ => id).ok h3).weaken hio id fun _ => id
  refine ⟨k1.trans k2, fun ⟨l', m, hl, hm⟩ => (SameMem.ofKept k1).trans ?_, fun n e => locate_reg_pc (e ▸ h1)⟩
  obtain ⟨rfl, rfl⟩ : l = l' ∧ u = m := by
    rw [h1] at hl
    injection hl with e1 e2
    exact ⟨e1, e2⟩
  cases l with
  | const c => exact SameMem.ofKept (k2 : Kept io false _ u x)
  | reg n => exact SameMem.ofKept (k2 : Kept io false _ u x)
  | mem ea =>
    obtain ⟨_, y, g1, g2⟩ := bind_ok h3
    injection g1 with e1 e2
    subst e1 e2
    obtain ⟨b, g3, _⟩ := map_ok g2
    obtain ⟨pas, z, ht⟩ := hm
    exact loadVirtIn_mapped hw ht g3

theorem intType_size {w : Nat} (h : w = 64) : (intType w).size = 8 := by subst h; rfl

theorem pc_one (p : Word) (a : Nat) : p + 1 + BitVec.ofNat 32 a = p + BitVec.ofNat 32 (1 + a) := by
  rw [BitVec.ofNat_add, ← BitVec.add_assoc]
  rfl

theorem pc_next (p : Word) (a b : Nat) : p + BitVec.ofNat 32 a + BitVec.ofNat 32 b = p + BitVec.ofNat 32 (a + b) := by
  rw [BitVec.ofNat_add, BitVec.add_assoc]

theorem writeOp_reg {w : Nat} {io : Bool} (hw : w ≤ 32 ∨ w = 64) {sp : Spec} {s t : State} {l : Loc}
    (h : writeOp w sp io s = .ok l t) :
    ∀ n, l = .reg n → n ≠ rPC ∧ (32 < w → n ≠ rSP) := fun n e => by
  obtain ⟨h1, h2⟩ := locate_reg_pc (e ▸ h : writeOp w sp io s = .ok (.reg n) t)
  exact ⟨h1, fun h32 => h2 (intType_size (by omega))⟩

/-! ### Lengths -/

/-- Bytes of specifiers of data types. -/
def specsLength : List DType → List Spec → Nat
  | ty :: tys, sp :: sps => sp.length ty + specsLength tys sps
  | _, _ => 0

theorem encodeOperands_length {ks : List Kind} {sps : List Spec} {os : List Operand} (ho : os = sps.map .spec) :
    (encodeOperands ks os).length = specsLength (ks.map Kind.ty) sps := by
  subst ho
  induction sps generalizing ks with
  | nil => cases ks <;> rfl
  | cons sp sps ih =>
    cases ks with
    | nil => rfl
    | cons k ks =>
      simp only [List.map_cons, encodeOperands, encodeOperand, List.length_append, specsLength, Spec.length, ih]

/-- The length of an instruction whose operands are specifiers. -/
theorem length_specs {i : Instr} {op : Byte} {tys : List DType} {sps : List Spec} (hop : i.opcode = op)
    (hs : (opRow op).sig.map Kind.ty = tys) (ho : i.operands = sps.map .spec) : i.length = 1 + specsLength tys sps := by
  subst hs hop
  simp only [Instr.length, encode, Instr.sig, List.length_cons, encodeOperands_length ho, Nat.add_comm]

/-! ### Shapes -/

theorem getCC_kept_run {io wr : Bool} {regs : List Reg} {s u : State} (k : Kept io wr regs s u) :
    getCC u = .ok s.cc u := by
  show EStateM.Result.ok u.cc u = _
  simp only [State.cc, State.pslBit, k.psl]

theorem Kept.mayWrite {io wr : Bool} {regs : List Reg} {s t : State} (k : Kept io false regs s t) : Kept io wr regs s t :=
  k.weaken id (fun e => by cases e) fun _ => id

theorem modifyOp_reg {w : Nat} (hw : w ≤ 32 ∨ w = 64) {l : Loc}
    (h : ∀ n, l = .reg n → n ≠ rPC ∧ ((intType w).size = 8 → n ≠ rSP)) :
    ∀ n, l = .reg n → n ≠ rPC ∧ (32 < w → n ≠ rSP) := fun n e =>
  ⟨(h n e).1, fun h32 => (h n e).2 (intType_size (by omega))⟩

/-- src.r, dst.w. -/
theorem unary_completes {v w : Nat} (hw : w ≤ 32 ∨ w = 64) (hvw : intIo v = intIo w)
    {mk : Spec → Spec → Instr} {g : BitVec v → CC → IntResult w} {f : BitVec v → CC → Want w}
    (hg : ∀ a c, (g a c).is (f a c)) (hi : ∀ a b s, exec (mk a b) s = runInstr s (unary v w g a b))
    (op : Byte) (hop : ∀ a b, (mk a b).opcode = op)
    (hs : (opRow op).sig.map Kind.ty = [intType v, intType w])
    (ho : ∀ a b, (mk a b).operands = [a, b].map .spec) : Unary v w mk f := by
  intro src dst s s1 u t a l h1 h2 h3
  have k0 : Kept (intIo w) false (rPC :: [src, dst].flatMap Spec.stepped) s s.opened :=
    opened_kept s (List.mem_cons_self ..)
  have k1 : Kept (intIo w) false (rPC :: [src, dst].flatMap Spec.stepped) s.opened s1 :=
    readOp_frame (by simp) (fun e => hvw ▸ e) h1
  have k2 : Kept (intIo w) false (rPC :: [src, dst].flatMap Spec.stepped) s1 u := writeOp_frame (by simp) id h2
  have k := (k0.trans k1).trans k2
  refine completed_of hw (hg a s.cc) (hi src dst s) ?_ (writeOp_reg hw h2) h3 id ?_ k.mayWrite
    fun _ => SameMem.ofKept k
  · unfold unary
    rw [bind_of_ok h1, bind_of_ok h2]
    rw [bind_of_ok (getCC_kept_run k)]
    rfl
  · rw [locate_pc h2, readInt_pc h1, opened_pc, pc_one, pc_next, length_specs (hop _ _) hs (ho _ _), Nat.add_assoc]
    rfl

/-- dst.w: zero stored. -/
theorem clear_completes {w : Nat} (hw : w ≤ 32 ∨ w = 64) {mk : Spec → Instr}
    (hi : ∀ a s, exec (mk a) s = runInstr s (clear w a)) (op : Byte) (hop : ∀ a, (mk a).opcode = op)
    (hs : (opRow op).sig.map Kind.ty = [intType w])
    (ho : ∀ a, (mk a).operands = [a].map .spec) :
    Clears w mk := by
  intro dst s u t l h1 h2
  have k0 : Kept (intIo w) false (rPC :: [dst].flatMap Spec.stepped) s s.opened := opened_kept s (List.mem_cons_self ..)
  have k := k0.trans (writeOp_frame (sps := [dst]) (by simp) id h1)
  have hz : (⟨0, ⟨false, true, false, s.cc.c⟩, false⟩ : IntResult w).is (wantMove (0 : BitVec w) s.cc) := by
    refine ⟨rfl, ?_, rfl⟩
    simp [wantMove, nz]
  have kt : Kept (intIo w) true (rPC :: [dst].flatMap Spec.stepped ++ l.regs w) u t :=
    (storeLoc_kept _ _ l _ (fun _ => rfl) fun n hn => List.mem_append_right _ hn).ok h2
  refine completed_of (y := ⟨0, ⟨false, true, false, s.cc.c⟩, false⟩) hw hz (hi dst s) ?_ (writeOp_reg hw h1) h2 id ?_
    k.mayWrite fun _ => SameMem.ofKept k
  · unfold clear
    rw [bind_of_ok h1]
    have e : getCC t = .ok s.cc t := getCC_kept_run ((k.mayWrite (wr := true)).weaken id id (fun n hn =>
      List.mem_append_left _ hn) |>.trans kt)
    have h2' : storeLoc (intIo w) false l (0 : BitVec w) u = .ok () t := h2
    rw [bind_of_ok h2, bind_of_ok e]
    refine Eq.trans ?_ (bind_of_ok h2').symm
    rw [IntResult.finish_run hz]
    simp [Want.trap, wantMove, nz, finish, putCC]
    rfl
  · rw [locate_pc h1, opened_pc, pc_one, length_specs (hop _) hs (ho _)]
    rfl

/-- dst.m. -/
theorem modify1_completes {w : Nat} (hw : w ≤ 32 ∨ w = 64) {mk : Spec → Instr} {g : BitVec w → IntResult w}
    {f : BitVec w → Want w} (hg : ∀ a, (g a).is (f a)) (hi : ∀ a s, exec (mk a) s = runInstr s (modify1 w g a))
    (op : Byte) (hop : ∀ a, (mk a).opcode = op)
    (hs : (opRow op).sig.map Kind.ty = [intType w])
    (ho : ∀ a, (mk a).operands = [a].map .spec) : Modify1 w mk f := by
  intro dst s u t a l h1 h2
  have k0 {wr : Bool} : Kept (intIo w) wr (rPC :: [dst].flatMap Spec.stepped) s s.opened :=
    opened_kept s (List.mem_cons_self ..)
  obtain ⟨k1, m1, r1⟩ := modifyOp_spec (by omega) (sps := [dst]) (by simp) id h1
  refine completed_back hw (hg a) (hi dst s) ?_ (modifyOp_reg hw r1) h2 ?_ (k0.trans k1)
    fun e => (SameMem.ofKept (k0 (wr := false))).trans (m1 e)
  · unfold modify1
    rw [bind_of_ok h1]
  · rw [modifyOp_pc h1, opened_pc, pc_one, length_specs (hop _) hs (ho _)]
    rfl

/-- src.r, dst.m. -/
theorem binary2_completes {w : Nat} {io : Bool} (hw : w ≤ 32 ∨ w = 64) {mk : Spec → Spec → Instr}
    {g : BitVec w → BitVec w → CC → IntResult w} {f : BitVec w → BitVec w → CC → Want w} (hg : ∀ a b c, (g a b c).is (f a b c))
    (hi : ∀ a b s, exec (mk a b) s = runInstr s (binary2 w g a b io))
    (op : Byte) (hop : ∀ a b, (mk a b).opcode = op)
    (hs : (opRow op).sig.map Kind.ty = [intType w, intType w])
    (ho : ∀ a b, (mk a b).operands = [a, b].map .spec) : Binary2 w mk f io := by
  intro src dst s s1 u t a b l h1 h2 h3
  have k0 {wr : Bool} : Kept io wr (rPC :: [src, dst].flatMap Spec.stepped) s s.opened :=
    opened_kept s (List.mem_cons_self ..)
  have k1 {wr : Bool} : Kept io wr (rPC :: [src, dst].flatMap Spec.stepped) s.opened s1 :=
    readOp_frame (by simp) id h1
  obtain ⟨k2, m2, r2⟩ := modifyOp_spec (by omega) (sps := [src, dst]) (by simp) id h2
  have k := (k0.trans k1).trans k2
  refine completed_back hw (hg a b s.cc) (hi src dst s) ?_ (modifyOp_reg hw r2) h3 ?_ k
    fun e => (SameMem.ofKept (k0.trans (k1 (wr := false)))).trans (m2 e)
  · unfold binary2
    rw [bind_of_ok h1, bind_of_ok h2]
    exact bind_of_ok (getCC_kept_run k)
  · rw [modifyOp_pc h2, readInt_pc h1, opened_pc, pc_one, pc_next, length_specs (hop _ _) hs (ho _ _), Nat.add_assoc]
    rfl

/-- src1.r, src2.r, dst.w. -/
theorem binary3_completes {w : Nat} {io : Bool} (hw : w ≤ 32 ∨ w = 64) {mk : Spec → Spec → Spec → Instr}
    {g : BitVec w → BitVec w → CC → IntResult w} {f : BitVec w → BitVec w → CC → Want w} (hg : ∀ a b c, (g a b c).is (f a b c))
    (hi : ∀ a b c s, exec (mk a b c) s = runInstr s (binary3 w g a b c io))
    (op : Byte) (hop : ∀ a b c, (mk a b c).opcode = op)
    (hs : (opRow op).sig.map Kind.ty = [intType w, intType w, intType w])
    (ho : ∀ a b c, (mk a b c).operands = [a, b, c].map .spec) : Binary3 w mk f io := by
  intro src1 src2 dst s s1 s2 u t a b l h1 h2 h3 h4
  have k0 : Kept io false (rPC :: [src1, src2, dst].flatMap Spec.stepped) s s.opened :=
    opened_kept s (List.mem_cons_self ..)
  have k1 := k0.trans (readOp_frame (sps := [src1, src2, dst]) (by simp) id h1)
  have k2 := k1.trans (readOp_frame (sps := [src1, src2, dst]) (by simp) id h2)
  have k := k2.trans (writeOp_frame (sps := [src1, src2, dst]) (by simp) id h3)
  refine completed_of hw (hg a b s.cc) (hi src1 src2 dst s) ?_ (writeOp_reg hw h3) h4 id ?_ k.mayWrite fun _ => SameMem.ofKept k
  · unfold binary3
    rw [bind_of_ok h1, bind_of_ok h2, bind_of_ok h3, bind_of_ok (getCC_kept_run k)]
    rfl
  · rw [locate_pc h3, readInt_pc h2, readInt_pc h1, opened_pc, pc_one, pc_next, pc_next, length_specs (hop _ _ _) hs (ho _ _ _), Nat.add_assoc]
    rfl

/-- cnt.rb, src.r, dst.w. -/
theorem shifts_complete {w : Nat} (hw : w ≤ 32 ∨ w = 64) {mk : Spec → Spec → Spec → Instr}
    {g : Byte → BitVec w → CC → IntResult w} {f : Byte → BitVec w → CC → Want w} (hg : ∀ a b c, (g a b c).is (f a b c))
    {m : Spec → Spec → Spec → M Completion} (hi : ∀ a b c s, exec (mk a b c) s = runInstr s (m a b c))
    (hm : ∀ cnt src dst s s1 s2 u k a l, readOp 8 cnt false s = .ok k s1 → readOp w src false s1 = .ok a s2 →
      writeOp w dst false s2 = .ok l u →
      m cnt src dst s = (do storeOp l (g k a u.cc).r false; (g k a u.cc).finish : M Completion) u)
    (op : Byte) (hop : ∀ a b c, (mk a b c).opcode = op)
    (hs : (opRow op).sig.map Kind.ty = [.b, intType w, intType w])
    (ho : ∀ a b c, (mk a b c).operands = [a, b, c].map .spec) : Shifts w mk f := by
  intro cnt src dst s s1 s2 u t n a l h1 h2 h3 h4
  have k0 : Kept false false (rPC :: [cnt, src, dst].flatMap Spec.stepped) s s.opened :=
    opened_kept s (List.mem_cons_self ..)
  have k1 := k0.trans (readOp_frame (sps := [cnt, src, dst]) (by simp) id h1)
  have k2 := k1.trans (readOp_frame (sps := [cnt, src, dst]) (by simp) id h2)
  have k := k2.trans (writeOp_frame (sps := [cnt, src, dst]) (by simp) id h3)
  have ecc : u.cc = s.cc := by simp only [State.cc, State.pslBit, k.psl]
  refine completed_of hw (hg n a s.cc) (hi cnt src dst s) ?_ (writeOp_reg hw h3) h4 id ?_ k.mayWrite
    fun _ => SameMem.ofKept k
  · rw [hm _ _ _ _ _ _ _ _ _ _ h1 h2 h3, ecc]
    rfl
  · rw [locate_pc h3, readInt_pc h2, readInt_pc h1, opened_pc, pc_one, pc_next, pc_next,
      length_specs (hop _ _ _) hs (ho _ _ _), Nat.add_assoc]
    rfl

/-- src1.r, src2.r: condition codes only. -/
theorem compare2_completes {w : Nat} {mk : Spec → Spec → Instr} {g f : BitVec w → BitVec w → CC → CC}
    (hg : ∀ a b c, g a b c = f a b c) (hi : ∀ a b s, exec (mk a b) s = runInstr s (compare2 w g a b))
    (op : Byte) (hop : ∀ a b, (mk a b).opcode = op)
    (hs : (opRow op).sig.map Kind.ty = [intType w, intType w])
    (ho : ∀ a b, (mk a b).operands = [a, b].map .spec) : Compare2 w mk f := by
  intro src1 src2 s s1 t a b h1 h2
  have k0 : Kept (intIo w) false (rPC :: [src1, src2].flatMap Spec.stepped) s s.opened :=
    opened_kept s (List.mem_cons_self ..)
  have k1 := k0.trans (readOp_frame (sps := [src1, src2]) (by simp) id h1)
  have k := k1.trans (readOp_frame (sps := [src1, src2]) (by simp) id h2)
  refine ⟨?_, ?_, k⟩
  · rw [hi]
    unfold runInstr
    have e : compare2 w g src1 src2 (s.setPc (s.pc + 1)) = .ok .done (t.setCC (f a b s.cc)) := by
      unfold compare2
      rw [bind_of_ok (show readOp w src1 (intIo w) (s.setPc (s.pc + 1)) = _ from h1), bind_of_ok h2,
        bind_of_ok (getCC_kept_run k), hg]
      rfl
    rw [e]
  · rw [readInt_pc h2, readInt_pc h1, opened_pc, pc_one, pc_next, length_specs (hop _ _) hs (ho _ _), Nat.add_assoc]
    rfl

/-- src.r: condition codes only. -/
theorem test1_completes {w : Nat} {mk : Spec → Instr} {g f : BitVec w → CC} (hg : ∀ a, g a = f a)
    (hi : ∀ a s, exec (mk a) s = runInstr s (test1 w g a)) (op : Byte) (hop : ∀ a, (mk a).opcode = op)
    (hs : (opRow op).sig.map Kind.ty = [intType w])
    (ho : ∀ a, (mk a).operands = [a].map .spec) :
    Test1 w mk f := by
  intro src s t a h1
  have k0 : Kept (intIo w) false (rPC :: [src].flatMap Spec.stepped) s s.opened := opened_kept s (List.mem_cons_self ..)
  have k := k0.trans (readOp_frame (sps := [src]) (by simp) id h1)
  refine ⟨?_, ?_, k⟩
  · rw [hi]
    unfold runInstr
    have e : test1 w g src (s.setPc (s.pc + 1)) = .ok .done (t.setCC (f a)) := by
      unfold test1
      rw [bind_of_ok (show readOp w src (intIo w) (s.setPc (s.pc + 1)) = _ from h1), hg]
      rfl
    rw [e]
  · rw [readInt_pc h1, opened_pc, pc_one, length_specs (hop _) hs (ho _)]
    rfl

end Sys2Proof.Machine
end

