-- ==== Sys2Proof/Tests/Slice0.lean ====
section
/-! SUPPORT. Tests: ill-formed terms refused, words decoded, single steps, and for every statement of Obligations.lean with
hypotheses a state and operands that meet them. Expected values are those of the rules' worked examples and of
spec/95_test_vectors.md to 98_test_vectors_string_decimal.md. -/
namespace Sys2Proof.Tests
set_option Elab.async false
open Sys2Proof Sys2Proof.Machine

/-! ### Well-formedness -/

/-- Autoincrement of PC is not a form of its own (R261). -/
theorem test_refuses_autoinc_pc : (Instr.tstl (.base (.autoInc 15))).WellFormed = false := by decide

/-- Autoincrement deferred of PC is the absolute mode (R261). -/
theorem test_refuses_autoinc_deferred_pc : (Instr.tstl (.base (.autoIncDef 15))).WellFormed = false := by decide

/-- An immediate byte has eight bits (R261). -/
theorem test_refuses_wide_immediate : (Instr.tstb (.base (.imm 0x100))).WellFormed = false := by decide

/-- Under an index prefix the base is checked too (R260). -/
theorem test_refuses_indexed_autoinc_pc : (Instr.tstl (.index 3 (.autoInc 15))).WellFormed = false := by decide

/-- A base specifier is no misused index prefix (R260). -/
theorem test_refuses_good_index_as_bad : (Instr.tstl (.indexBad 3 0x62)).WellFormed = false := by decide

/-- An operand that is a displacement where a specifier is asked for, or the other way round (R264). -/
theorem test_refuses_wrong_operand_form :
    (Operand.dispB 4).wellFormed .rl = false ∧ (Operand.spec (.lit 1)).wellFormed .bb = false ∧
    (Operand.dispW 4).wellFormed .bb = false ∧ (Operand.dispB 4).wellFormed .bw = false := by decide

/-- Too few and too many operands (R240). -/
theorem test_refuses_wrong_operand_count :
    operandsWellFormed [.rl] [] = false ∧ operandsWellFormed [] [.spec (.lit 1)] = false := by decide

theorem test_accepts_well_formed :
    (Instr.movl (.base (.imm 0xFFFFFFFF)) (.index 3 (.autoInc 2))).WellFormed = true ∧
    (Instr.tstl (.indexBad 3 0x5F)).WellFormed = true := by decide

/-! ### Decoding -/

/-- The instruction a list of bytes is, whole. -/
def reads (bs : List Byte) : Option Instr :=
  match decode bs with
  | .ok (i, []) => some i
  | _ => none

/-- `(R1)` to `(R6)`. -/
abbrev r1 : Spec := .base (.regDef 1)
abbrev r2 : Spec := .base (.regDef 2)
abbrev r3 : Spec := .base (.regDef 3)
abbrev r4 : Spec := .base (.regDef 4)
abbrev r5 : Spec := .base (.regDef 5)
abbrev r6 : Spec := .base (.regDef 6)

/-- The opcodes 00 to 0F of spec/opcode_table.json, each operand `(Rk)`, k its number, or a displacement. -/
theorem test_decode_00_to_0f :
  reads [0x00] = some .halt ∧
  reads [0x01] = some .nop ∧
  reads [0x02] = some .rei ∧
  reads [0x03] = some .bpt ∧
  reads [0x04] = some .ret ∧
  reads [0x05] = some .rsb ∧
  reads [0x06] = some .ldpctx ∧
  reads [0x07] = some .svpctx ∧
  reads [0x08, 0x61, 0x62, 0x63, 0x64] = some (.cvtps r1 r2 r3 r4) ∧
  reads [0x09, 0x61, 0x62, 0x63, 0x64] = some (.cvtsp r1 r2 r3 r4) ∧
  reads [0x0A, 0x61, 0x62, 0x63, 0x64, 0x65, 0x66] = some (.index r1 r2 r3 r4 r5 r6) ∧
  reads [0x0B, 0x61, 0x62, 0x63, 0x64] = some (.crc r1 r2 r3 r4) ∧
  reads [0x0C, 0x61, 0x62, 0x63] = some (.prober r1 r2 r3) ∧
  reads [0x0D, 0x61, 0x62, 0x63] = some (.probew r1 r2 r3) ∧
  reads [0x0E, 0x61, 0x62] = some (.insque r1 r2) ∧
  reads [0x0F, 0x61, 0x62] = some (.remque r1 r2) := by decide +kernel

/-- The opcodes 10 to 1F of spec/opcode_table.json, each operand `(Rk)`, k its number, or a displacement. -/
theorem test_decode_10_to_1f :
  reads [0x10, 0xF0] = some (.bsbb 0xF0) ∧
  reads [0x11, 0xF0] = some (.brb 0xF0) ∧
  reads [0x12, 0xF0] = some (.bneq 0xF0) ∧
  reads [0x13, 0xF0] = some (.beql 0xF0) ∧
  reads [0x14, 0xF0] = some (.bgtr 0xF0) ∧
  reads [0x15, 0xF0] = some (.bleq 0xF0) ∧
  reads [0x16, 0x61] = some (.jsb r1) ∧
  reads [0x17, 0x61] = some (.jmp r1) ∧
  reads [0x18, 0xF0] = some (.bgeq 0xF0) ∧
  reads [0x19, 0xF0] = some (.blss 0xF0) ∧
  reads [0x1A, 0xF0] = some (.bgtru 0xF0) ∧
  reads [0x1B, 0xF0] = some (.blequ 0xF0) ∧
  reads [0x1C, 0xF0] = some (.bvc 0xF0) ∧
  reads [0x1D, 0xF0] = some (.bvs 0xF0) ∧
  reads [0x1E, 0xF0] = some (.bcc 0xF0) ∧
  reads [0x1F, 0xF0] = some (.bcs 0xF0) := by decide +kernel

/-- The opcodes 20 to 2F of spec/opcode_table.json, each operand `(Rk)`, k its number, or a displacement. -/
theorem test_decode_20_to_2f :
  reads [0x20, 0x61, 0x62, 0x63, 0x64] = some (.addp4 r1 r2 r3 r4) ∧
  reads [0x21, 0x61, 0x62, 0x63, 0x64, 0x65, 0x66] = some (.addp6 r1 r2 r3 r4 r5 r6) ∧
  reads [0x22, 0x61, 0x62, 0x63, 0x64] = some (.subp4 r1 r2 r3 r4) ∧
  reads [0x23, 0x61, 0x62, 0x63, 0x64, 0x65, 0x66] = some (.subp6 r1 r2 r3 r4 r5 r6) ∧
  reads [0x24, 0x61, 0x62, 0x63, 0x64, 0x65] = some (.cvtpt r1 r2 r3 r4 r5) ∧
  reads [0x25, 0x61, 0x62, 0x63, 0x64, 0x65, 0x66] = some (.mulp r1 r2 r3 r4 r5 r6) ∧
  reads [0x26, 0x61, 0x62, 0x63, 0x64, 0x65] = some (.cvttp r1 r2 r3 r4 r5) ∧
  reads [0x27, 0x61, 0x62, 0x63, 0x64, 0x65, 0x66] = some (.divp r1 r2 r3 r4 r5 r6) ∧
  reads [0x28, 0x61, 0x62, 0x63] = some (.movc3 r1 r2 r3) ∧
  reads [0x29, 0x61, 0x62, 0x63] = some (.cmpc3 r1 r2 r3) ∧
  reads [0x2A, 0x61, 0x62, 0x63, 0x64] = some (.scanc r1 r2 r3 r4) ∧
  reads [0x2B, 0x61, 0x62, 0x63, 0x64] = some (.spanc r1 r2 r3 r4) ∧
  reads [0x2C, 0x61, 0x62, 0x63, 0x64, 0x65] = some (.movc5 r1 r2 r3 r4 r5) ∧
  reads [0x2D, 0x61, 0x62, 0x63, 0x64, 0x65] = some (.cmpc5 r1 r2 r3 r4 r5) ∧
  reads [0x2E, 0x61, 0x62, 0x63, 0x64, 0x65, 0x66] = some (.movtc r1 r2 r3 r4 r5 r6) ∧
  reads [0x2F, 0x61, 0x62, 0x63, 0x64, 0x65, 0x66] = some (.movtuc r1 r2 r3 r4 r5 r6) := by decide +kernel

/-- The opcodes 30 to 3F of spec/opcode_table.json, each operand `(Rk)`, k its number, or a displacement. -/
theorem test_decode_30_to_3f :
  reads [0x30, 0x34, 0xF2] = some (.bsbw 0xF234) ∧
  reads [0x31, 0x34, 0xF2] = some (.brw 0xF234) ∧
  reads [0x32, 0x61, 0x62] = some (.cvtwl r1 r2) ∧
  reads [0x33, 0x61, 0x62] = some (.cvtwb r1 r2) ∧
  reads [0x34, 0x61, 0x62, 0x63] = some (.movp r1 r2 r3) ∧
  reads [0x35, 0x61, 0x62, 0x63] = some (.cmpp3 r1 r2 r3) ∧
  reads [0x36, 0x61, 0x62, 0x63] = some (.cvtpl r1 r2 r3) ∧
  reads [0x37, 0x61, 0x62, 0x63, 0x64] = some (.cmpp4 r1 r2 r3 r4) ∧
  reads [0x38, 0x61, 0x62, 0x63, 0x64] = some (.editpc r1 r2 r3 r4) ∧
  reads [0x39, 0x61, 0x62, 0x63, 0x64] = some (.matchc r1 r2 r3 r4) ∧
  reads [0x3A, 0x61, 0x62, 0x63] = some (.locc r1 r2 r3) ∧
  reads [0x3B, 0x61, 0x62, 0x63] = some (.skpc r1 r2 r3) ∧
  reads [0x3C, 0x61, 0x62] = some (.movzwl r1 r2) ∧
  reads [0x3D, 0x61, 0x62, 0x63, 0x34, 0xF2] = some (.acbw r1 r2 r3 0xF234) ∧
  reads [0x3E, 0x61, 0x62] = some (.movaw r1 r2) ∧
  reads [0x3F, 0x61] = some (.pushaw r1) := by decide +kernel

/-- The opcodes 40 to 4F of spec/opcode_table.json, each operand `(Rk)`, k its number, or a displacement. -/
theorem test_decode_40_to_4f :
  reads [0x40, 0x61, 0x62] = some (.addf2 r1 r2) ∧
  reads [0x41, 0x61, 0x62, 0x63] = some (.addf3 r1 r2 r3) ∧
  reads [0x42, 0x61, 0x62] = some (.subf2 r1 r2) ∧
  reads [0x43, 0x61, 0x62, 0x63] = some (.subf3 r1 r2 r3) ∧
  reads [0x44, 0x61, 0x62] = some (.mulf2 r1 r2) ∧
  reads [0x45, 0x61, 0x62, 0x63] = some (.mulf3 r1 r2 r3) ∧
  reads [0x46, 0x61, 0x62] = some (.divf2 r1 r2) ∧
  reads [0x47, 0x61, 0x62, 0x63] = some (.divf3 r1 r2 r3) ∧
  reads [0x48, 0x61, 0x62] = some (.cvtfb r1 r2) ∧
  reads [0x49, 0x61, 0x62] = some (.cvtfw r1 r2) ∧
  reads [0x4A, 0x61, 0x62] = some (.cvtfl r1 r2) ∧
  reads [0x4B, 0x61, 0x62] = some (.cvtrfl r1 r2) ∧
  reads [0x4C, 0x61, 0x62] = some (.cvtbf r1 r2) ∧
  reads [0x4D, 0x61, 0x62] = some (.cvtwf r1 r2) ∧
  reads [0x4E, 0x61, 0x62] = some (.cvtlf r1 r2) ∧
  reads [0x4F, 0x61, 0x62, 0x63, 0x34, 0xF2] = some (.acbf r1 r2 r3 0xF234) := by decide +kernel

/-- The opcodes 50 to 5F of spec/opcode_table.json, each operand `(Rk)`, k its number, or a displacement. -/
theorem test_decode_50_to_5f :
  reads [0x50, 0x61, 0x62] = some (.movf r1 r2) ∧
  reads [0x51, 0x61, 0x62] = some (.cmpf r1 r2) ∧
  reads [0x52, 0x61, 0x62] = some (.mnegf r1 r2) ∧
  reads [0x53, 0x61] = some (.tstf r1) ∧
  reads [0x54, 0x61, 0x62, 0x63, 0x64, 0x65] = some (.emodf r1 r2 r3 r4 r5) ∧
  reads [0x55, 0x61, 0x62, 0x63] = some (.polyf r1 r2 r3) ∧
  reads [0x56, 0x61, 0x62] = some (.cvtfd r1 r2) ∧
  reads [0x57] = some .reserved57 ∧
  reads [0x58, 0x61, 0x62] = some (.adawi r1 r2) ∧
  reads [0x59] = some .reserved59 ∧
  reads [0x5A] = some .reserved5a ∧
  reads [0x5B] = some .reserved5b ∧
  reads [0x5C] = some .reserved5c ∧
  reads [0x5D] = some .reserved5d ∧
  reads [0x5E] = some .reserved5e ∧
  reads [0x5F] = some .reserved5f := by decide +kernel

/-- The opcodes 60 to 6F of spec/opcode_table.json, each operand `(Rk)`, k its number, or a displacement. -/
theorem test_decode_60_to_6f :
  reads [0x60, 0x61, 0x62] = some (.addd2 r1 r2) ∧
  reads [0x61, 0x61, 0x62, 0x63] = some (.addd3 r1 r2 r3) ∧
  reads [0x62, 0x61, 0x62] = some (.subd2 r1 r2) ∧
  reads [0x63, 0x61, 0x62, 0x63] = some (.subd3 r1 r2 r3) ∧
  reads [0x64, 0x61, 0x62] = some (.muld2 r1 r2) ∧
  reads [0x65, 0x61, 0x62, 0x63] = some (.muld3 r1 r2 r3) ∧
  reads [0x66, 0x61, 0x62] = some (.divd2 r1 r2) ∧
  reads [0x67, 0x61, 0x62, 0x63] = some (.divd3 r1 r2 r3) ∧
  reads [0x68, 0x61, 0x62] = some (.cvtdb r1 r2) ∧
  reads [0x69, 0x61, 0x62] = some (.cvtdw r1 r2) ∧
  reads [0x6A, 0x61, 0x62] = some (.cvtdl r1 r2) ∧
  reads [0x6B, 0x61, 0x62] = some (.cvtrdl r1 r2) ∧
  reads [0x6C, 0x61, 0x62] = some (.cvtbd r1 r2) ∧
  reads [0x6D, 0x61, 0x62] = some (.cvtwd r1 r2) ∧
  reads [0x6E, 0x61, 0x62] = some (.cvtld r1 r2) ∧
  reads [0x6F, 0x61, 0x62, 0x63, 0x34, 0xF2] = some (.acbd r1 r2 r3 0xF234) := by decide +kernel

/-- The opcodes 70 to 7F of spec/opcode_table.json, each operand `(Rk)`, k its number, or a displacement. -/
theorem test_decode_70_to_7f :
  reads [0x70, 0x61, 0x62] = some (.movd r1 r2) ∧
  reads [0x71, 0x61, 0x62] = some (.cmpd r1 r2) ∧
  reads [0x72, 0x61, 0x62] = some (.mnegd r1 r2) ∧
  reads [0x73, 0x61] = some (.tstd r1) ∧
  reads [0x74, 0x61, 0x62, 0x63, 0x64, 0x65] = some (.emodd r1 r2 r3 r4 r5) ∧
  reads [0x75, 0x61, 0x62, 0x63] = some (.polyd r1 r2 r3) ∧
  reads [0x76, 0x61, 0x62] = some (.cvtdf r1 r2) ∧
  reads [0x77] = some .reserved77 ∧
  reads [0x78, 0x61, 0x62, 0x63] = some (.ashl r1 r2 r3) ∧
  reads [0x79, 0x61, 0x62, 0x63] = some (.ashq r1 r2 r3) ∧
  reads [0x7A, 0x61, 0x62, 0x63, 0x64] = some (.emul r1 r2 r3 r4) ∧
  reads [0x7B, 0x61, 0x62, 0x63, 0x64] = some (.ediv r1 r2 r3 r4) ∧
  reads [0x7C, 0x61] = some (.clrq r1) ∧
  reads [0x7D, 0x61, 0x62] = some (.movq r1 r2) ∧
  reads [0x7E, 0x61, 0x62] = some (.movaq r1 r2) ∧
  reads [0x7F, 0x61] = some (.pushaq r1) := by decide +kernel

/-- The opcodes 80 to 8F of spec/opcode_table.json, each operand `(Rk)`, k its number, or a displacement. -/
theorem test_decode_80_to_8f :
  reads [0x80, 0x61, 0x62] = some (.addb2 r1 r2) ∧
  reads [0x81, 0x61, 0x62, 0x63] = some (.addb3 r1 r2 r3) ∧
  reads [0x82, 0x61, 0x62] = some (.subb2 r1 r2) ∧
  reads [0x83, 0x61, 0x62, 0x63] = some (.subb3 r1 r2 r3) ∧
  reads [0x84, 0x61, 0x62] = some (.mulb2 r1 r2) ∧
  reads [0x85, 0x61, 0x62, 0x63] = some (.mulb3 r1 r2 r3) ∧
  reads [0x86, 0x61, 0x62] = some (.divb2 r1 r2) ∧
  reads [0x87, 0x61, 0x62, 0x63] = some (.divb3 r1 r2 r3) ∧
  reads [0x88, 0x61, 0x62] = some (.bisb2 r1 r2) ∧
  reads [0x89, 0x61, 0x62, 0x63] = some (.bisb3 r1 r2 r3) ∧
  reads [0x8A, 0x61, 0x62] = some (.bicb2 r1 r2) ∧
  reads [0x8B, 0x61, 0x62, 0x63] = some (.bicb3 r1 r2 r3) ∧
  reads [0x8C, 0x61, 0x62] = some (.xorb2 r1 r2) ∧
  reads [0x8D, 0x61, 0x62, 0x63] = some (.xorb3 r1 r2 r3) ∧
  reads [0x8E, 0x61, 0x62] = some (.mnegb r1 r2) ∧
  reads [0x8F, 0x61, 0x62, 0x63] = some (.caseb r1 r2 r3) := by decide +kernel

/-- The opcodes 90 to 9F of spec/opcode_table.json, each operand `(Rk)`, k its number, or a displacement. -/
theorem test_decode_90_to_9f :
  reads [0x90, 0x61, 0x62] = some (.movb r1 r2) ∧
  reads [0x91, 0x61, 0x62] = some (.cmpb r1 r2) ∧
  reads [0x92, 0x61, 0x62] = some (.mcomb r1 r2) ∧
  reads [0x93, 0x61, 0x62] = some (.bitb r1 r2) ∧
  reads [0x94, 0x61] = some (.clrb r1) ∧
  reads [0x95, 0x61] = some (.tstb r1) ∧
  reads [0x96, 0x61] = some (.incb r1) ∧
  reads [0x97, 0x61] = some (.decb r1) ∧
  reads [0x98, 0x61, 0x62] = some (.cvtbl r1 r2) ∧
  reads [0x99, 0x61, 0x62] = some (.cvtbw r1 r2) ∧
  reads [0x9A, 0x61, 0x62] = some (.movzbl r1 r2) ∧
  reads [0x9B, 0x61, 0x62] = some (.movzbw r1 r2) ∧
  reads [0x9C, 0x61, 0x62, 0x63] = some (.rotl r1 r2 r3) ∧
  reads [0x9D, 0x61, 0x62, 0x63, 0x34, 0xF2] = some (.acbb r1 r2 r3 0xF234) ∧
  reads [0x9E, 0x61, 0x62] = some (.movab r1 r2) ∧
  reads [0x9F, 0x61] = some (.pushab r1) := by decide +kernel

/-- The opcodes A0 to AF of spec/opcode_table.json, each operand `(Rk)`, k its number, or a displacement. -/
theorem test_decode_a0_to_af :
  reads [0xA0, 0x61, 0x62] = some (.addw2 r1 r2) ∧
  reads [0xA1, 0x61, 0x62, 0x63] = some (.addw3 r1 r2 r3) ∧
  reads [0xA2, 0x61, 0x62] = some (.subw2 r1 r2) ∧
  reads [0xA3, 0x61, 0x62, 0x63] = some (.subw3 r1 r2 r3) ∧
  reads [0xA4, 0x61, 0x62] = some (.mulw2 r1 r2) ∧
  reads [0xA5, 0x61, 0x62, 0x63] = some (.mulw3 r1 r2 r3) ∧
  reads [0xA6, 0x61, 0x62] = some (.divw2 r1 r2) ∧
  reads [0xA7, 0x61, 0x62, 0x63] = some (.divw3 r1 r2 r3) ∧
  reads [0xA8, 0x61, 0x62] = some (.bisw2 r1 r2) ∧
  reads [0xA9, 0x61, 0x62, 0x63] = some (.bisw3 r1 r2 r3) ∧
  reads [0xAA, 0x61, 0x62] = some (.bicw2 r1 r2) ∧
  reads [0xAB, 0x61, 0x62, 0x63] = some (.bicw3 r1 r2 r3) ∧
  reads [0xAC, 0x61, 0x62] = some (.xorw2 r1 r2) ∧
  reads [0xAD, 0x61, 0x62, 0x63] = some (.xorw3 r1 r2 r3) ∧
  reads [0xAE, 0x61, 0x62] = some (.mnegw r1 r2) ∧
  reads [0xAF, 0x61, 0x62, 0x63] = some (.casew r1 r2 r3) := by decide +kernel

/-- The opcodes B0 to BF of spec/opcode_table.json, each operand `(Rk)`, k its number, or a displacement. -/
theorem test_decode_b0_to_bf :
  reads [0xB0, 0x61, 0x62] = some (.movw r1 r2) ∧
  reads [0xB1, 0x61, 0x62] = some (.cmpw r1 r2) ∧
  reads [0xB2, 0x61, 0x62] = some (.mcomw r1 r2) ∧
  reads [0xB3, 0x61, 0x62] = some (.bitw r1 r2) ∧
  reads [0xB4, 0x61] = some (.clrw r1) ∧
  reads [0xB5, 0x61] = some (.tstw r1) ∧
  reads [0xB6, 0x61] = some (.incw r1) ∧
  reads [0xB7, 0x61] = some (.decw r1) ∧
  reads [0xB8, 0x61] = some (.bispsw r1) ∧
  reads [0xB9, 0x61] = some (.bicpsw r1) ∧
  reads [0xBA, 0x61] = some (.popr r1) ∧
  reads [0xBB, 0x61] = some (.pushr r1) ∧
  reads [0xBC, 0x61] = some (.chmk r1) ∧
  reads [0xBD, 0x61] = some (.chme r1) ∧
  reads [0xBE, 0x61] = some (.chms r1) ∧
  reads [0xBF, 0x61] = some (.chmu r1) := by decide +kernel

/-- The opcodes C0 to CF of spec/opcode_table.json, each operand `(Rk)`, k its number, or a displacement. -/
theorem test_decode_c0_to_cf :
  reads [0xC0, 0x61, 0x62] = some (.addl2 r1 r2) ∧
  reads [0xC1, 0x61, 0x62, 0x63] = some (.addl3 r1 r2 r3) ∧
  reads [0xC2, 0x61, 0x62] = some (.subl2 r1 r2) ∧
  reads [0xC3, 0x61, 0x62, 0x63] = some (.subl3 r1 r2 r3) ∧
  reads [0xC4, 0x61, 0x62] = some (.mull2 r1 r2) ∧
  reads [0xC5, 0x61, 0x62, 0x63] = some (.mull3 r1 r2 r3) ∧
  reads [0xC6, 0x61, 0x62] = some (.divl2 r1 r2) ∧
  reads [0xC7, 0x61, 0x62, 0x63] = some (.divl3 r1 r2 r3) ∧
  reads [0xC8, 0x61, 0x62] = some (.bisl2 r1 r2) ∧
  reads [0xC9, 0x61, 0x62, 0x63] = some (.bisl3 r1 r2 r3) ∧
  reads [0xCA, 0x61, 0x62] = some (.bicl2 r1 r2) ∧
  reads [0xCB, 0x61, 0x62, 0x63] = some (.bicl3 r1 r2 r3) ∧
  reads [0xCC, 0x61, 0x62] = some (.xorl2 r1 r2) ∧
  reads [0xCD, 0x61, 0x62, 0x63] = some (.xorl3 r1 r2 r3) ∧
  reads [0xCE, 0x61, 0x62] = some (.mnegl r1 r2) ∧
  reads [0xCF, 0x61, 0x62, 0x63] = some (.casel r1 r2 r3) := by decide +kernel

/-- The opcodes D0 to DF of spec/opcode_table.json, each operand `(Rk)`, k its number, or a displacement. -/
theorem test_decode_d0_to_df :
  reads [0xD0, 0x61, 0x62] = some (.movl r1 r2) ∧
  reads [0xD1, 0x61, 0x62] = some (.cmpl r1 r2) ∧
  reads [0xD2, 0x61, 0x62] = some (.mcoml r1 r2) ∧
  reads [0xD3, 0x61, 0x62] = some (.bitl r1 r2) ∧
  reads [0xD4, 0x61] = some (.clrl r1) ∧
  reads [0xD5, 0x61] = some (.tstl r1) ∧
  reads [0xD6, 0x61] = some (.incl r1) ∧
  reads [0xD7, 0x61] = some (.decl r1) ∧
  reads [0xD8, 0x61, 0x62] = some (.adwc r1 r2) ∧
  reads [0xD9, 0x61, 0x62] = some (.sbwc r1 r2) ∧
  reads [0xDA, 0x61, 0x62] = some (.mtpr r1 r2) ∧
  reads [0xDB, 0x61, 0x62] = some (.mfpr r1 r2) ∧
  reads [0xDC, 0x61] = some (.movpsl r1) ∧
  reads [0xDD, 0x61] = some (.pushl r1) ∧
  reads [0xDE, 0x61, 0x62] = some (.moval r1 r2) ∧
  reads [0xDF, 0x61] = some (.pushal r1) := by decide +kernel

/-- The opcodes E0 to EF of spec/opcode_table.json, each operand `(Rk)`, k its number, or a displacement. -/
theorem test_decode_e0_to_ef :
  reads [0xE0, 0x61, 0x62, 0xF0] = some (.bbs r1 r2 0xF0) ∧
  reads [0xE1, 0x61, 0x62, 0xF0] = some (.bbc r1 r2 0xF0) ∧
  reads [0xE2, 0x61, 0x62, 0xF0] = some (.bbss r1 r2 0xF0) ∧
  reads [0xE3, 0x61, 0x62, 0xF0] = some (.bbcs r1 r2 0xF0) ∧
  reads [0xE4, 0x61, 0x62, 0xF0] = some (.bbsc r1 r2 0xF0) ∧
  reads [0xE5, 0x61, 0x62, 0xF0] = some (.bbcc r1 r2 0xF0) ∧
  reads [0xE6, 0x61, 0x62, 0xF0] = some (.bbssi r1 r2 0xF0) ∧
  reads [0xE7, 0x61, 0x62, 0xF0] = some (.bbcci r1 r2 0xF0) ∧
  reads [0xE8, 0x61, 0xF0] = some (.blbs r1 0xF0) ∧
  reads [0xE9, 0x61, 0xF0] = some (.blbc r1 0xF0) ∧
  reads [0xEA, 0x61, 0x62, 0x63, 0x64] = some (.ffs r1 r2 r3 r4) ∧
  reads [0xEB, 0x61, 0x62, 0x63, 0x64] = some (.ffc r1 r2 r3 r4) ∧
  reads [0xEC, 0x61, 0x62, 0x63, 0x64] = some (.cmpv r1 r2 r3 r4) ∧
  reads [0xED, 0x61, 0x62, 0x63, 0x64] = some (.cmpzv r1 r2 r3 r4) ∧
  reads [0xEE, 0x61, 0x62, 0x63, 0x64] = some (.extv r1 r2 r3 r4) ∧
  reads [0xEF, 0x61, 0x62, 0x63, 0x64] = some (.extzv r1 r2 r3 r4) := by decide +kernel

/-- The opcodes F0 to FF of spec/opcode_table.json, each operand `(Rk)`, k its number, or a displacement. -/
theorem test_decode_f0_to_ff :
  reads [0xF0, 0x61, 0x62, 0x63, 0x64] = some (.insv r1 r2 r3 r4) ∧
  reads [0xF1, 0x61, 0x62, 0x63, 0x34, 0xF2] = some (.acbl r1 r2 r3 0xF234) ∧
  reads [0xF2, 0x61, 0x62, 0xF0] = some (.aoblss r1 r2 0xF0) ∧
  reads [0xF3, 0x61, 0x62, 0xF0] = some (.aobleq r1 r2 0xF0) ∧
  reads [0xF4, 0x61, 0xF0] = some (.sobgeq r1 0xF0) ∧
  reads [0xF5, 0x61, 0xF0] = some (.sobgtr r1 0xF0) ∧
  reads [0xF6, 0x61, 0x62] = some (.cvtlb r1 r2) ∧
  reads [0xF7, 0x61, 0x62] = some (.cvtlw r1 r2) ∧
  reads [0xF8, 0x61, 0x62, 0x63, 0x64, 0x65, 0x66] = some (.ashp r1 r2 r3 r4 r5 r6) ∧
  reads [0xF9, 0x61, 0x62, 0x63] = some (.cvtlp r1 r2 r3) ∧
  reads [0xFA, 0x61, 0x62] = some (.callg r1 r2) ∧
  reads [0xFB, 0x61, 0x62] = some (.calls r1 r2) ∧
  reads [0xFC] = some .xfc ∧
  reads [0xFD] = some .escd ∧
  reads [0xFE] = some .esce ∧
  reads [0xFF] = some .escf := by decide +kernel
/-- The addressing modes of an operand (R249, R253 to R261). -/
theorem test_decode_modes :
    reads [0xD5, 0x3F] = some (.tstl (.lit 63)) ∧ reads [0xD5, 0x5E] = some (.tstl (.reg 14)) ∧
    reads [0xD5, 0x6C] = some (.tstl (.base (.regDef 12))) ∧ reads [0xD5, 0x7D] = some (.tstl (.base (.autoDec 13))) ∧
    reads [0xD5, 0x8E] = some (.tstl (.base (.autoInc 14))) ∧
    reads [0xD5, 0x8F, 0x78, 0x56, 0x34, 0x12] = some (.tstl (.base (.imm 0x12345678))) ∧
    reads [0xD5, 0x91] = some (.tstl (.base (.autoIncDef 1))) ∧
    reads [0xD5, 0x9F, 0x78, 0x56, 0x34, 0x12] = some (.tstl (.base (.abs 0x12345678))) ∧
    reads [0xD5, 0xA2, 0xFE] = some (.tstl (.base (.dispB 2 0xFE))) ∧
    reads [0xD5, 0xBF, 0x02] = some (.tstl (.base (.dispBDef 15 2))) ∧
    reads [0xD5, 0xC2, 0xFE, 0x01] = some (.tstl (.base (.dispW 2 0x1FE))) ∧
    reads [0xD5, 0xD2, 0xFE, 0x01] = some (.tstl (.base (.dispWDef 2 0x1FE))) ∧
    reads [0xD5, 0xE2, 4, 3, 2, 1] = some (.tstl (.base (.dispL 2 0x01020304))) ∧
    reads [0xD5, 0xF2, 4, 3, 2, 1] = some (.tstl (.base (.dispLDef 2 0x01020304))) ∧
    reads [0xD5, 0x47, 0x62] = some (.tstl (.index 7 (.regDef 2))) ∧
    reads [0xD5, 0x47, 0x52] = some (.tstl (.indexBad 7 0x52)) ∧
    reads [0x73, 0x8F, 1, 2, 3, 4, 5, 6, 7, 8] = some (.tstd (.base (.imm 0x0807060504030201))) := by decide +kernel

/-- A list that ends inside an instruction (R245). -/
theorem test_decode_truncated :
    (match decode [0xD0, 0x8F, 1, 2, 3] with | .error .truncated => true | _ => false) = true := by decide

/-- The opcode table's word of MOVL: two short literals of value 0. -/
theorem test_table_word : decodeTableWord 8 0xD0 = some (.movl (.lit 0) (.lit 0)) := by decide +kernel

/-- A table word is the first instruction run after reset. -/
theorem test_fetch_word :
    (match step (State.reset.withFetchWord 24 0x5205D0) with
      | .next t => t.reg 2 == 5 && t.pc == 3
      | _ => false) = true := by decide +kernel

/-! ### Single steps -/

/-- A running machine without adapters, memory management off, with a PSL, registers and bytes of main memory. -/
def machine (psl : Word) (regs : List (Reg × Word)) (mem : List (Nat × List Byte)) : State :=
  let s : State := State.resetOf { Config.Params.default with ubas := [], mbas := [] }
  let s : State := { s with psl := psl, run := ⟨false, .initial, false, none⟩ }
  (mem.foldl (fun s m => storeBytes s m.1 m.2) (s.withRegs ((15, 0x1000) :: regs))).sync

/-- The step at 1000 of an instruction's bytes leads to a state that passes a check. -/
def lands (code : List Byte) (s : State) (p : State → Bool) : Bool :=
  match step (storeBytes s 0x1000 code).sync with
  | .next t => p t
  | _ => false

/-- In kernel mode on the interrupt stack at IPL 31, as after reset. -/
abbrev kernel : List (Reg × Word) → List (Nat × List Byte) → State := machine 0x041F0000

/-- The condition codes are N, Z, V, C. -/
def codes (t : State) (n z v c : Bool) : Bool := t.cc == ⟨n, z, v, c⟩

/-- The bytes from an address on. -/
def bytes (t : State) (a : Nat) (bs : List Byte) : Bool := (List.range bs.length).map (fun i => t.memByte (a + i)) == bs.map some

/-- The longword on the stack k bytes above SP. -/
def stack (t : State) (k : Nat) (v : Word) : Bool := t.memLong (t.sp.toNat + k) == some v

/-- R373: `MOVB #^X80, R1`. -/
theorem test_movb : lands [0x90, 0x8F, 0x80, 0x51] (machine 0x41F0001 [(1, 0x12345678), (14, 0x10000)] []) (fun t =>
    t.reg 1 == 0x12345680 && codes t true false false true) = true := by
  decide +kernel

/-- R376: `MOVQ R2, R4`. -/
theorem test_movq : lands [0x7D, 0x52, 0x54] (machine 0x41F0001 [(2, 0), (3, 0), (14, 0x10000)] []) (fun t => t.reg 4
    == 0 && t.reg 5 == 0 && codes t false true false true) = true := by
  decide +kernel

/-- R387: `MCOML #0, R1`. -/
theorem test_mcoml : lands [0xD2, 0, 0x51] (machine 0x41F0001 [(1, 0x12345678), (14, 0x10000)] []) (fun t => t.reg 1
    == 0xFFFFFFFF && codes t true false false true) = true := by
  decide +kernel

/-- R379: `CLRW R1`. -/
theorem test_clrw : lands [0xB4, 0x51] (machine 0x41F0009 [(1, 0x12345678), (14, 0x10000)] []) (fun t => t.reg 1 ==
    0x12340000 && codes t false true false true) = true := by
  decide +kernel

/-- R382: `MNEGB #^X80, R1`. -/
theorem test_mnegb : lands [0x8E, 0x8F, 0x80, 0x51] (kernel [(1, 0x12345678), (14, 0x10000)] []) (fun t => t.reg 1 ==
    0x12345680 && codes t true false true true) = true := by
  decide +kernel

/-- R389: `MOVZBL #0, R1`. -/
theorem test_movzbl : lands [0x9A, 0, 0x51] (machine 0x41F0001 [(1, 0x12345678), (14, 0x10000)] []) (fun t => t.reg 1
    == 0 && codes t false true false true) = true := by
  decide +kernel

/-- R395: `CVTLB #^XFFFFFF00, R1`. -/
theorem test_cvtlb : lands [0xF6, 0x8F, 0, 0xFF, 0xFF, 0xFF, 0x51] (kernel [(1, 0x12345678), (14, 0x10000)] []) (fun t
    => t.reg 1 == 0x12345600 && codes t false true true false) = true := by
  decide +kernel

/-- R391: `CVTBW #^X80, R1`. -/
theorem test_cvtbw : lands [0x99, 0x8F, 0x80, 0x51] (machine 0x41F0001 [(1, 0x12345678), (14, 0x10000)] []) (fun t =>
    t.reg 1 == 0x1234FF80 && codes t true false false false) = true := by
  decide +kernel

/-- R397: `CMPB #^X80, #1`. -/
theorem test_cmpb : lands [0x91, 0x8F, 0x80, 1] (kernel [(14, 0x10000)] []) (fun t => codes t true false false false)
    = true := by
  decide +kernel

/-- R402: `TSTL R1`. -/
theorem test_tstl : lands [0xD5, 0x51] (machine 0x41F0001 [(1, 0x80000000), (14, 0x10000)] []) (fun t => codes t true
    false false false) = true := by
  decide +kernel

/-- R406: `INCB R1`. -/
theorem test_incb : lands [0x96, 0x51] (kernel [(1, 0x1234567F), (14, 0x10000)] []) (fun t => t.reg 1 == 0x12345680 &&
    codes t true false true false) = true := by
  decide +kernel

/-- R411: `DECL R1`. -/
theorem test_decl : lands [0xD7, 0x51] (kernel [(1, 0x80000000), (14, 0x10000)] []) (fun t => t.reg 1 == 0x7FFFFFFF &&
    codes t false false true false) = true := by
  decide +kernel

/-- R416: `ADDL2 #^X80000000, R1`. -/
theorem test_addl2 : lands [0xC0, 0x8F, 0, 0, 0, 0x80, 0x51] (kernel [(1, 0x80000000), (14, 0x10000)] []) (fun t =>
    t.reg 1 == 0 && codes t false true true true) = true := by
  decide +kernel

/-- R418: `ADWC #1, R1`. -/
theorem test_adwc : lands [0xD8, 1, 0x51] (kernel [(1, 0x7FFFFFFF), (14, 0x10000)] []) (fun t => t.reg 1 == 0x80000000
    && codes t true false true false) = true := by
  decide +kernel

/-- R419: `SBWC #0, R1`. -/
theorem test_sbwc : lands [0xD9, 0, 0x51] (machine 0x41F0001 [(1, 0), (14, 0x10000)] []) (fun t => t.reg 1 ==
    0xFFFFFFFF && codes t true false false true) = true := by
  decide +kernel

/-- R424: `SUBW3 #^XFFFF, R1, R2`. -/
theorem test_subw3 : lands [0xA3, 0x8F, 0xFF, 0xFF, 0x51, 0x52] (kernel [(1, 0x12347FFF), (2, 0x12345678), (14,
    0x10000)] []) (fun t => t.reg 2 == 0x12348000 && codes t true false true true) = true := by
  decide +kernel

/-- R432: `MULL3 #^X80000000, R1, R2`. -/
theorem test_mull3 : lands [0xC5, 0x8F, 0, 0, 0, 0x80, 0x51, 0x52] (kernel [(1, 0xFFFFFFFF), (2, 0x12345678), (14,
    0x10000)] []) (fun t => t.reg 2 == 0x80000000 && codes t true false true false) = true := by
  decide +kernel

/-- R427: `MULB2 #^X80, R1`. -/
theorem test_mulb2 : lands [0x84, 0x8F, 0x80, 0x51] (kernel [(1, 0x123456FF), (14, 0x10000)] []) (fun t => t.reg 1 ==
    0x12345680 && codes t true false true false) = true := by
  decide +kernel

/-- R440: `DIVL3 #^XFFFFFFFF, R1, R2`. -/
theorem test_divl3 : lands [0xC7, 0x8F, 0xFF, 0xFF, 0xFF, 0xFF, 0x51, 0x52] (kernel [(1, 0x80000000), (2, 0x12345678),
    (14, 0x10000)] []) (fun t => t.reg 2 == 0x80000000 && codes t true false true false) = true := by
  decide +kernel

/-- R433: `EMUL #^XFFFFFFFF, #^XFFFFFFFF, #0, R2`. -/
theorem test_emul : lands [0x7A, 0x8F, 0xFF, 0xFF, 0xFF, 0xFF, 0x8F, 0xFF, 0xFF, 0xFF, 0xFF, 0, 0x52] (kernel [(14,
    0x10000)] []) (fun t => t.reg 2 == 1 && t.reg 3 == 0 && codes t false false false false) = true := by
  decide +kernel

/-- R434: `EDIV #1, R2, R4, R5`. -/
theorem test_ediv : lands [0x7B, 1, 0x52, 0x54, 0x55] (kernel [(2, 0), (3, 1), (14, 0x10000)] []) (fun t => t.reg 4 ==
    0 && t.reg 5 == 0 && codes t false true true false) = true := by
  decide +kernel

/-- R441: `BISB2 #15, R1`. -/
theorem test_bisb2 : lands [0x88, 0xF, 0x51] (machine 0x41F0001 [(1, 0x123456F0), (14, 0x10000)] []) (fun t => t.reg 1
    == 0x123456FF && codes t true false false true) = true := by
  decide +kernel

/-- R450: `BICW3 #15, R1, R2`. -/
theorem test_bicw3 : lands [0xAB, 0xF, 0x51, 0x52] (machine 0x41F0001 [(1, 0x1234F0F0), (2, 0x12345678), (14,
    0x10000)] []) (fun t => t.reg 2 == 0x1234F0F0 && codes t true false false true) = true := by
  decide +kernel

/-- R457: `XORL2 #15, R1`. -/
theorem test_xorl2 : lands [0xCC, 0xF, 0x51] (machine 0x41F0001 [(1, 0xF0F0F0F0), (14, 0x10000)] []) (fun t => t.reg 1
    == 0xF0F0F0FF && codes t true false false true) = true := by
  decide +kernel

/-- R459: `ASHL #1, R1, R2`. -/
theorem test_ashl : lands [0x78, 1, 0x51, 0x52] (kernel [(1, 0x40000000), (14, 0x10000)] []) (fun t => t.reg 2 ==
    0x80000000 && codes t true false true false) = true := by
  decide +kernel

/-- R460: `ASHQ #63, R2, R4`. -/
theorem test_ashq : lands [0x79, 0x3F, 0x52, 0x54] (kernel [(2, 1), (3, 0), (14, 0x10000)] []) (fun t => t.reg 4 == 0
    && t.reg 5 == 0x80000000 && codes t true false true false) = true := by
  decide +kernel

/-- R461: `ROTL #^XFC, R1, R2`. -/
theorem test_rotl : lands [0x9C, 0x8F, 0xFC, 0x51, 0x52] (machine 0x41F0001 [(1, 0x12345678), (14, 0x10000)] []) (fun
    t => t.reg 2 == 0x81234567 && codes t true false false true) = true := by
  decide +kernel

/-- R464: `MOVAL (R1)+, R0`. -/
theorem test_moval : lands [0xDE, 0x81, 0x50] (kernel [(1, 0x80001000), (14, 0x10000)] []) (fun t => t.reg 0 ==
    0x80001000 && t.reg 1 == 0x80001004 && codes t true false false false) = true := by
  decide +kernel

/-- R377: `PUSHL R0`. -/
theorem test_pushl : lands [0xDD, 0x50] (machine 0x41F0001 [(0, 0xFFFFFFFE), (14, 0x1000)] []) (fun t => bytes t 0xFFC
    [0xFE, 0xFF, 0xFF, 0xFF] && t.reg 14 == 0xFFC && codes t true false false true) = true := by
  decide +kernel

/-- R469: `PUSHAQ 8(R1)`. -/
theorem test_pushaq : lands [0x7F, 0xA1, 8] (kernel [(1, 0x1000), (14, 0x2000)] []) (fun t => bytes t 0x1FFC [8, 0x10,
    0, 0] && t.reg 14 == 0x1FFC && codes t false false false false) = true := by
  decide +kernel

/-- R473: `BRW .+4660`. -/
theorem test_brw : lands [0x31, 0x34, 0x12] (kernel [(14, 0x10000)] []) (fun t => t.pc == 0x2237) = true := by
  decide +kernel

/-- R489: `JSB (R2)`. -/
theorem test_jsb : lands [0x16, 0x62] (kernel [(2, 0x3000), (14, 0x2000)] []) (fun t => bytes t 0x1FFC [2, 0x10, 0, 0]
    && t.pc == 0x3000 && t.reg 14 == 0x1FFC) = true := by
  decide +kernel

/-- R487: `BSBB .+32`. -/
theorem test_bsbb : lands [0x10, 0x20] (kernel [(14, 0x2000)] []) (fun t => bytes t 0x1FFC [2, 0x10, 0, 0] && t.pc ==
    0x1022 && t.reg 14 == 0x1FFC) = true := by
  decide +kernel

/-- R490: `RSB`. -/
theorem test_rsb : lands [5] (kernel [(14, 0x1FFC)] [(0x1FFC, [2, 0x10, 0, 0])]) (fun t => t.pc == 0x1002 && t.reg 14
    == 0x2000) = true := by
  decide +kernel

/-- R495: `ACBL #^X7FFFFFFF, #1, R1, .-16`. -/
theorem test_acbl : lands [0xF1, 0x8F, 0xFF, 0xFF, 0xFF, 0x7F, 1, 0x51, 0xF0, 0xFF] (machine 0x41F0001 [(1,
    0x7FFFFFFF), (14, 0x10000)] []) (fun t => t.reg 1 == 0x80000000 && t.pc == 0xFFA && codes t true false true true)
    = true := by
  decide +kernel

/-- R497: `AOBLEQ #^X7FFFFFFF, R1, .-10`. -/
theorem test_aobleq : lands [0xF3, 0x8F, 0xFF, 0xFF, 0xFF, 0x7F, 0x51, 0xF6] (machine 0x41F0001 [(1, 0x7FFFFFFF), (14,
    0x10000)] []) (fun t => t.reg 1 == 0x80000000 && t.pc == 0xFFE && codes t true false true true) = true := by
  decide +kernel

/-- R499: `SOBGTR R1, .-10`. -/
theorem test_sobgtr : lands [0xF5, 0x51, 0xF6] (machine 0x41F0001 [(1, 0x80000000), (14, 0x10000)] []) (fun t => t.reg
    1 == 0x7FFFFFFF && t.pc == 0xFF9 && codes t false false true true) = true := by
  decide +kernel

/-- R542: `EXTV #4, #8, (R1), R0`. -/
theorem test_extv : lands [0xEE, 4, 8, 0x61, 0x50] (machine 0x41F0001 [(1, 0x2000), (14, 0x10000)] [(0x1FFF, [0x5A,
    0xEF, 0xCD, 0xAB, 0x89, 0x67])]) (fun t => t.reg 0 == 0xFFFFFFDE && codes t true false false true) = true := by
  decide +kernel

/-- R543: `EXTZV #0, #32, (R1), R0`. -/
theorem test_extzv : lands [0xEF, 0, 0x20, 0x61, 0x50] (machine 0x41F0001 [(1, 0x2000), (14, 0x10000)] [(0x1FFF,
    [0x5A, 0xEF, 0xCD, 0xAB, 0x89, 0x67])]) (fun t => t.reg 0 == 0x89ABCDEF && codes t true false false true) = true
    := by
  decide +kernel

/-- R544: `INSV #^XFF, #28, #8, R2`. -/
theorem test_insv : lands [0xF0, 0x8F, 0xFF, 0, 0, 0, 0x1C, 8, 0x52] (kernel [(2, 0), (3, 0), (14, 0x10000)] []) (fun
    t => t.reg 2 == 0xF0000000 && t.reg 3 == 0xF) = true := by
  decide +kernel

/-- R547: `FFS #4, #8, R2, R0`. -/
theorem test_ffs : lands [0xEA, 4, 8, 0x52, 0x50] (kernel [(2, 0), (14, 0x10000)] []) (fun t => t.reg 0 == 0xC &&
    codes t false true false false) = true := by
  decide +kernel

/-- R548: `FFC #4, #8, R2, R0`. -/
theorem test_ffc : lands [0xEB, 4, 8, 0x52, 0x50] (kernel [(2, 0xFFFFFFFF), (14, 0x10000)] []) (fun t => t.reg 0 ==
    0xC && codes t false true false false) = true := by
  decide +kernel

/-- R545: `CMPV #0, #0, (R1), #1`. -/
theorem test_cmpv : lands [0xEC, 0, 0, 0x61, 1] (kernel [(1, 0x2000), (14, 0x10000)] [(0x1FFF, [0x5A, 0xEF, 0xCD,
    0xAB, 0x89, 0x67])]) (fun t => codes t true false false true) = true := by
  decide +kernel

/-- R552: `BBSS #31, R2, .+8`. -/
theorem test_bbss : lands [0xE2, 0x1F, 0x52, 8] (kernel [(2, 0x80000000), (14, 0x10000)] []) (fun t => t.reg 2 ==
    0x80000000 && t.pc == 0x100C) = true := by
  decide +kernel

/-- R555: `BBCC #31, R2, .+8`. -/
theorem test_bbcc : lands [0xE5, 0x1F, 0x52, 8] (kernel [(2, 0x80000000), (14, 0x10000)] []) (fun t => t.reg 2 == 0 &&
    t.pc == 0x1004) = true := by
  decide +kernel

/-- R559: `INSQUE @#^X3200, @4(R5)`. -/
theorem test_insque : lands [0xE, 0x9F, 0, 0x32, 0, 0, 0xB5, 4] (kernel [(5, 0x3000), (14, 0x10000)] [(0x3000, [0,
    0x31, 0, 0]), (0x3004, [0, 0x31, 0, 0]), (0x3100, [0, 0x30, 0, 0]), (0x3104, [0, 0x30, 0, 0])]) (fun t => bytes t
    0x3000 [0, 0x31, 0, 0] && bytes t 0x3004 [0, 0x32, 0, 0] && bytes t 0x3100 [0, 0x32, 0, 0] && bytes t 0x3104 [0,
    0x30, 0, 0] && bytes t 0x3200 [0, 0x30, 0, 0] && bytes t 0x3204 [0, 0x31, 0, 0] && codes t true false false true)
    = true := by
  decide +kernel

/-- R560: `REMQUE @0(R5), R0`. -/
theorem test_remque : lands [0xF, 0xB5, 0, 0x50] (kernel [(5, 0x3000), (14, 0x10000)] [(0x3000, [0, 0x32, 0, 0]),
    (0x3004, [0, 0x32, 0, 0]), (0x3200, [0, 0x30, 0, 0]), (0x3204, [0, 0x30, 0, 0])]) (fun t => bytes t 0x3000 [0,
    0x30, 0, 0] && bytes t 0x3004 [0, 0x30, 0, 0] && t.reg 0 == 0x3200 && codes t false true false false) = true := by
  decide +kernel

/-- R561: `PUSHR #^X4005`. -/
theorem test_pushr : lands [0xBB, 0x8F, 5, 0x40] (kernel [(0, 0), (2, 0x22222222), (14, 0x2000)] []) (fun t => bytes t
    0x1FF4 [0, 0, 0, 0] && bytes t 0x1FF8 [0x22, 0x22, 0x22, 0x22] && bytes t 0x1FFC [0, 0x20, 0, 0] && t.reg 14 ==
    0x1FF4) = true := by
  decide +kernel

/-- R562: `POPR #5`. -/
theorem test_popr : lands [0xBA, 5] (kernel [(14, 0x1FF8)] [(0x1FF8, [0xAA, 0xAA, 0, 0]), (0x1FFC, [0xBB, 0xBB, 0,
    0])]) (fun t => t.reg 0 == 0xAAAA && t.reg 2 == 0xBBBB && t.reg 14 == 0x2000) = true := by
  decide +kernel

/-- R564: `BISPSW #33`. -/
theorem test_bispsw : lands [0xB8, 0x21] (machine 0x41F0008 [(14, 0x10000)] []) (fun t => t.psl.extractLsb' 0 16 ==
    0x29 && t.psl.getLsbD 0 == true && t.psl.getLsbD 3 == true && t.psl.getLsbD 5 == true) = true := by
  decide +kernel

/-- R565: `BICPSW #^XFF`. -/
theorem test_bicpsw : lands [0xB9, 0x8F, 0xFF, 0] (machine 0x41F00EF [(14, 0x10000)] []) (fun t => t.psl.extractLsb' 0
    16 == 0) = true := by
  decide +kernel

/-- R566: `INDEX #^X40000000, #0, #^X7FFFFFFF, #4, #0, R0`. -/
theorem test_index : lands [0xA, 0x8F, 0, 0, 0, 0x40, 0, 0x8F, 0xFF, 0xFF, 0xFF, 0x7F, 4, 0, 0x50] (machine 0x41F0001
    [(14, 0x10000)] []) (fun t => t.reg 0 == 0 && codes t false true false false) = true := by
  decide +kernel

/-- R420: `ADAWI #1, R2`. -/
theorem test_adawi : lands [0x58, 1, 0x52] (kernel [(2, 0x12347FFF), (14, 0x10000)] []) (fun t => t.reg 2 ==
    0x12348000 && codes t true false true false) = true := by
  decide +kernel

/-- R605: `ADDF3 #^X0000C080, R2, R4`. -/
theorem test_addf3 : lands [0x41, 0x8F, 0x80, 0xC0, 0, 0, 0x52, 0x54] (kernel [(2, 0x4080), (14, 0x10000)] []) (fun t
    => t.reg 4 == 0 && codes t false true false false) = true := by
  decide +kernel

/-- R606: `ADDD2 #^X000000000000C080, R2`. -/
theorem test_addd2 : lands [0x60, 0x8F, 0x80, 0xC0, 0, 0, 0, 0, 0, 0, 0x52] (kernel [(2, 0x4080), (3, 0), (14,
    0x10000)] []) (fun t => t.reg 2 == 0 && t.reg 3 == 0 && codes t false true false false) = true := by
  decide +kernel

/-- R608: `SUBF2 #3, R2`. -/
theorem test_subf2 : lands [0x42, 0x14, 0x52] (kernel [(2, 0x4080), (14, 0x10000)] []) (fun t => t.reg 2 == 0xC100 &&
    codes t true false false false) = true := by
  decide +kernel

/-- R615: `MULD3 #^X000000000000C100, R2, R4`. -/
theorem test_muld3 : lands [0x65, 0x8F, 0, 0xC1, 0, 0, 0, 0, 0, 0, 0x52, 0x54] (kernel [(2, 0x40A0), (3, 0), (14,
    0x10000)] []) (fun t => t.reg 4 == 0xC120 && t.reg 5 == 0 && codes t true false false false) = true := by
  decide +kernel

/-- R612: `MULF2 #^X0000C100, R2`. -/
theorem test_mulf2 : lands [0x44, 0x8F, 0, 0xC1, 0, 0, 0x52] (kernel [(2, 0x40A0), (14, 0x10000)] []) (fun t => t.reg
    2 == 0xC120 && codes t true false false false) = true := by
  decide +kernel

/-- R617: `DIVF3 #^X0000C180, R2, R4`. -/
theorem test_divf3 : lands [0x47, 0x8F, 0x80, 0xC1, 0, 0, 0x52, 0x54] (kernel [(2, 0x4220), (14, 0x10000)] []) (fun t
    => t.reg 4 == 0xC120 && codes t true false false false) = true := by
  decide +kernel

/-- R632: `CVTFL R2, R0`. -/
theorem test_cvtfl : lands [0x4A, 0x52, 0x50] (kernel [(2, 0x5000), (0, 0x12345678), (14, 0x10000)] []) (fun t =>
    t.reg 0 == 0x80000000 && codes t true false true false) = true := by
  decide +kernel

/-- R634: `CVTRFL R2, R0`. -/
theorem test_cvtrfl : lands [0x4B, 0x52, 0x50] (kernel [(2, 0x5000), (0, 0x12345678), (14, 0x10000)] []) (fun t =>
    t.reg 0 == 0x80000000 && codes t true false true false) = true := by
  decide +kernel

/-- R640: `CVTLF #^X80000000, R4`. -/
theorem test_cvtlf : lands [0x4E, 0x8F, 0, 0, 0, 0x80, 0x54] (kernel [(14, 0x10000)] []) (fun t => t.reg 4 == 0xD000
    && codes t true false false false) = true := by
  decide +kernel

/-- R643: `CVTDF R2, R4`. -/
theorem test_cvtdf : lands [0x76, 0x52, 0x54] (kernel [(2, 0), (3, 0), (14, 0x10000)] []) (fun t => t.reg 4 == 0 &&
    codes t false true false false) = true := by
  decide +kernel

/-- R642: `CVTFD R2, R4`. -/
theorem test_cvtfd : lands [0x56, 0x52, 0x54] (kernel [(2, 0xC040), (14, 0x10000)] []) (fun t => t.reg 4 == 0xC040 &&
    t.reg 5 == 0 && codes t true false false false) = true := by
  decide +kernel

/-- R622: `MNEGF R2, R4`. -/
theorem test_mnegf : lands [0x52, 0x52, 0x54] (machine 0x41F0001 [(2, 0), (14, 0x10000)] []) (fun t => t.reg 4 == 0 &&
    codes t false true false false) = true := by
  decide +kernel

/-- R625: `CMPD R2, R4`. -/
theorem test_cmpd : lands [0x71, 0x52, 0x54] (machine 0x41F0001 [(2, 0x4080), (3, 0), (4, 0x4100), (5, 0), (14,
    0x10000)] []) (fun t => codes t true false false false) = true := by
  decide +kernel

/-- R626: `TSTF R2`. -/
theorem test_tstf : lands [0x53, 0x52] (machine 0x41F0001 [(2, 0xC0C0), (14, 0x10000)] []) (fun t => codes t true
    false false false) = true := by
  decide +kernel

/-- R644: `EMODF #^X00005480, #0, #1, R0, R4`. -/
theorem test_emodf : lands [0x54, 0x8F, 0x80, 0x54, 0, 0, 0, 8, 0x50, 0x54] (kernel [(14, 0x10000)] []) (fun t =>
    t.reg 0 == 0 && t.reg 4 == 0 && codes t false true true false) = true := by
  decide +kernel

/-- R645: `EMODD #^X0000000000005480, #0, #1, R0, R4`. -/
theorem test_emodd : lands [0x74, 0x8F, 0x80, 0x54, 0, 0, 0, 0, 0, 0, 0, 8, 0x50, 0x54] (kernel [(14, 0x10000)] [])
    (fun t => t.reg 0 == 0 && t.reg 4 == 0 && t.reg 5 == 0 && codes t false true true false) = true := by
  decide +kernel

/-- R649: `ACBF #^X00000000, #^X0000C000, R2, .-20`. -/
theorem test_acbf : lands [0x4F, 0x8F, 0, 0, 0, 0, 0x8F, 0, 0xC0, 0, 0, 0x52, 0xEC, 0xFF] (machine 0x41F0001 [(2,
    0x4000), (14, 0x10000)] []) (fun t => t.reg 2 == 0 && t.pc == 0xFFA && codes t false true false true) = true := by
  decide +kernel

/-- R672: `MOVC3 #5, (R6), (R7)`. -/
theorem test_movc3 : lands [0x28, 5, 0x66, 0x67] (kernel [(6, 0x2000), (7, 0x3000), (14, 0x10000)] [(0x2000, [0x48,
    0x45, 0x4C, 0x4C, 0x4F])]) (fun t => bytes t 0x3000 [0x48, 0x45, 0x4C, 0x4C, 0x4F] && t.reg 0 == 0 && t.reg 1 ==
    0x2005 && t.reg 2 == 0 && t.reg 3 == 0x3005 && t.reg 4 == 0 && t.reg 5 == 0 && codes t false true false false) =
    true := by
  decide +kernel

/-- R673: `MOVC5 #3, (R6), #42, #5, (R7)`. -/
theorem test_movc5 : lands [0x2C, 3, 0x66, 0x2A, 5, 0x67] (kernel [(6, 0x2000), (7, 0x3000), (14, 0x10000)] [(0x2000,
    [0x41, 0x42, 0x43])]) (fun t => bytes t 0x3000 [0x41, 0x42, 0x43, 0x2A, 0x2A] && t.reg 0 == 0 && t.reg 1 == 0x2003
    && t.reg 2 == 0 && t.reg 3 == 0x3005 && t.reg 4 == 0 && t.reg 5 == 0 && codes t true false false true) = true :=
    by
  decide +kernel

/-- R674: `CMPC3 #4, (R6), (R7)`. -/
theorem test_cmpc3 : lands [0x29, 4, 0x66, 0x67] (kernel [(6, 0x2000), (7, 0x3000), (14, 0x10000)] [(0x2000, [0x41,
    0x42, 0x43, 0x44]), (0x3000, [0x41, 0x42, 0x58, 0x44])]) (fun t => t.reg 0 == 2 && t.reg 1 == 0x2002 && t.reg 2 ==
    2 && t.reg 3 == 0x3002 && codes t true false false true) = true := by
  decide +kernel

/-- R675: `CMPC5 #2, (R6), #32, #3, (R7)`. -/
theorem test_cmpc5 : lands [0x2D, 2, 0x66, 0x20, 3, 0x67] (kernel [(6, 0x2000), (7, 0x3000), (14, 0x10000)] [(0x2000,
    [0x41, 0x42]), (0x3000, [0x41, 0x42, 0x43])]) (fun t => t.reg 0 == 0 && t.reg 1 == 0x2002 && t.reg 2 == 1 && t.reg
    3 == 0x3002 && codes t true false false true) = true := by
  decide +kernel

/-- R680: `MATCHC #2, (R9), #5, (R7)`. -/
theorem test_matchc : lands [0x39, 2, 0x69, 5, 0x67] (kernel [(9, 0x2100), (7, 0x3000), (14, 0x10000)] [(0x2100,
    [0x43, 0x44]), (0x3000, [0x41, 0x42, 0x43, 0x44, 0x45])]) (fun t => t.reg 0 == 0 && t.reg 1 == 0x2102 && t.reg 2
    == 1 && t.reg 3 == 0x3004 && codes t false true false false) = true := by
  decide +kernel

/-- R683: `CRC (R8), #^X1234, #0, (R6)`. -/
theorem test_crc : lands [0xB, 0x68, 0x8F, 0x34, 0x12, 0, 0, 0, 0x66] (kernel [(8, 0x4000), (6, 0x2000), (14,
    0x10000)] [(0x2000, [0x31, 0x32, 0x33, 0x34, 0x35, 0x36, 0x37, 0x38, 0x39])]) (fun t => t.reg 0 == 0x1234 && t.reg
    1 == 0 && t.reg 2 == 0 && t.reg 3 == 0x2000 && codes t false false false false) = true := by
  decide +kernel

/-- R687: `MOVP #3, (R6), (R7)`. -/
theorem test_movp : lands [0x34, 3, 0x66, 0x67] (machine 0x41F0001 [(6, 0x2000), (7, 0x3000), (14, 0x10000)] [(0x2000,
    [0x12, 0x3D])]) (fun t => bytes t 0x3000 [0x12, 0x3D] && t.reg 0 == 0 && t.reg 1 == 0x2000 && t.reg 2 == 0 &&
    t.reg 3 == 0x3000 && codes t true false false true) = true := by
  decide +kernel

/-- R688: `CMPP3 #3, (R6), (R9)`. -/
theorem test_cmpp3 : lands [0x35, 3, 0x66, 0x69] (kernel [(6, 0x2000), (9, 0x2100), (14, 0x10000)] [(0x2000, [0x12,
    0x3C]), (0x2100, [0x12, 0x4C])]) (fun t => t.reg 0 == 0 && t.reg 1 == 0x2000 && t.reg 2 == 0 && t.reg 3 == 0x2100
    && codes t true false false false) = true := by
  decide +kernel

/-- R690: `ADDP4 #1, (R6), #3, (R7)`. -/
theorem test_addp4 : lands [0x20, 1, 0x66, 3, 0x67] (kernel [(6, 0x2000), (7, 0x3000), (14, 0x10000)] [(0x2000,
    [0x1C]), (0x3000, [0x99, 0x9C])]) (fun t => bytes t 0x3000 [0, 0xC] && t.reg 0 == 0 && t.reg 1 == 0x2000 && t.reg
    2 == 0 && t.reg 3 == 0x3000 && codes t false true true false) = true := by
  decide +kernel

/-- R691: `ADDP6 #3, (R6), #1, (R9), #3, (R7)`. -/
theorem test_addp6 : lands [0x21, 3, 0x66, 1, 0x69, 3, 0x67] (kernel [(6, 0x2000), (9, 0x2100), (7, 0x3000), (14,
    0x10000)] [(0x2000, [0x99, 0x9C]), (0x2100, [0x1C])]) (fun t => bytes t 0x3000 [0, 0xC] && t.reg 0 == 0 && t.reg 1
    == 0x2000 && t.reg 2 == 0 && t.reg 3 == 0x2100 && t.reg 4 == 0 && t.reg 5 == 0x3000 && codes t false true true
    false) = true := by
  decide +kernel

/-- R692: `SUBP4 #1, (R6), #1, (R7)`. -/
theorem test_subp4 : lands [0x22, 1, 0x66, 1, 0x67] (kernel [(6, 0x2000), (7, 0x3000), (14, 0x10000)] [(0x2000,
    [0x5D]), (0x3000, [0x5C])]) (fun t => bytes t 0x3000 [0xC] && t.reg 0 == 0 && t.reg 1 == 0x2000 && t.reg 2 == 0 &&
    t.reg 3 == 0x3000 && codes t false true true false) = true := by
  decide +kernel

/-- R693: `SUBP6 #2, (R6), #2, (R9), #2, (R7)`. -/
theorem test_subp6 : lands [0x23, 2, 0x66, 2, 0x69, 2, 0x67] (kernel [(6, 0x2000), (9, 0x2100), (7, 0x3000), (14,
    0x10000)] [(0x2000, [5, 0xD]), (0x2100, [5, 0xC])]) (fun t => bytes t 0x3000 [0, 0xC] && t.reg 0 == 0 && t.reg 1
    == 0x2000 && t.reg 2 == 0 && t.reg 3 == 0x2100 && t.reg 4 == 0 && t.reg 5 == 0x3000 && codes t false true true
    false) = true := by
  decide +kernel

/-- R694: `MULP #2, (R6), #2, (R9), #3, (R7)`. -/
theorem test_mulp : lands [0x25, 2, 0x66, 2, 0x69, 3, 0x67] (kernel [(6, 0x2000), (9, 0x2100), (7, 0x3000), (14,
    0x10000)] [(0x2000, [9, 0x9C]), (0x2100, [9, 0x9C])]) (fun t => bytes t 0x3000 [0x80, 0x1C] && t.reg 0 == 0 &&
    t.reg 1 == 0x2000 && t.reg 2 == 0 && t.reg 3 == 0x2100 && t.reg 4 == 0 && t.reg 5 == 0x3000 && codes t false false
    true false) = true := by
  decide +kernel

/-- R695: `DIVP #1, (R6), #3, (R9), #2, (R7)`. -/
theorem test_divp : lands [0x27, 1, 0x66, 3, 0x69, 2, 0x67] (kernel [(6, 0x2000), (9, 0x2100), (7, 0x3000), (14,
    0x10000)] [(0x2000, [0x1C]), (0x2100, [0x99, 0x9C])]) (fun t => bytes t 0x3000 [9, 0x9C] && t.reg 0 == 0 && t.reg
    1 == 0x2000 && t.reg 2 == 0 && t.reg 3 == 0x2100 && t.reg 4 == 0 && t.reg 5 == 0x3000 && codes t false false true
    false) = true := by
  decide +kernel

/-- R696: `CVTLP #^XFFFFFF9C, #2, (R7)`. -/
theorem test_cvtlp : lands [0xF9, 0x8F, 0x9C, 0xFF, 0xFF, 0xFF, 2, 0x67] (kernel [(7, 0x3000), (14, 0x10000)] []) (fun
    t => bytes t 0x3000 [0, 0xD] && t.reg 0 == 0 && t.reg 1 == 0 && t.reg 2 == 0 && t.reg 3 == 0x3000 && codes t false
    true true false) = true := by
  decide +kernel

/-- R697: `CVTPL #10, (R6), R8`. -/
theorem test_cvtpl : lands [0x36, 0xA, 0x66, 0x58] (kernel [(6, 0x2000), (14, 0x10000)] [(0x2000, [2, 0x14, 0x74,
    0x83, 0x64, 0x8C])]) (fun t => t.reg 0 == 0 && t.reg 1 == 0x2000 && t.reg 2 == 0 && t.reg 3 == 0 && t.reg 8 ==
    0x80000000 && codes t true false true false) = true := by
  decide +kernel

/-- R700: `CVTPS #1, (R6), #0, (R7)`. -/
theorem test_cvtps : lands [8, 1, 0x66, 0, 0x67] (kernel [(6, 0x2000), (7, 0x3000), (14, 0x10000)] [(0x2000, [0x5D])])
    (fun t => bytes t 0x3000 [0x2D] && t.reg 0 == 0 && t.reg 1 == 0x2000 && t.reg 2 == 0 && t.reg 3 == 0x3000 && codes
    t false true true false) = true := by
  decide +kernel

/-- R701: `CVTSP #4, (R6), #2, (R7)`. -/
theorem test_cvtsp : lands [9, 4, 0x66, 2, 0x67] (kernel [(6, 0x2000), (7, 0x3000), (14, 0x10000)] [(0x2000, [0x2B,
    0x31, 0x32, 0x33, 0x34])]) (fun t => bytes t 0x3000 [3, 0x4C] && t.reg 0 == 0 && t.reg 1 == 0x2000 && t.reg 2 == 0
    && t.reg 3 == 0x3000 && codes t false false true false) = true := by
  decide +kernel

/-- R702: `ASHP #^XFF, #3, (R6), #5, #2, (R7)`. -/
theorem test_ashp : lands [0xF8, 0x8F, 0xFF, 3, 0x66, 5, 2, 0x67] (kernel [(6, 0x2000), (7, 0x3000), (14, 0x10000)]
    [(0x2000, [0x99, 0x9C])]) (fun t => bytes t 0x3000 [0, 0xC] && t.reg 0 == 0 && t.reg 1 == 0x2000 && t.reg 2 == 0
    && t.reg 3 == 0x3000 && codes t false true true false) = true := by
  decide +kernel

/-- R703: `EDITPC #5, (R6), (R10), (R7)`. -/
theorem test_editpc : lands [0x38, 5, 0x66, 0x6A, 0x67] (kernel [(6, 0x2000), (10, 0x2200), (7, 0x3000), (14,
    0x10000)] [(0x2200, [0x47, 3, 0x93, 0]), (0x2000, [0x12, 0x34, 0x5C])]) (fun t => bytes t 0x3000 [0x33, 0x34,
    0x35] && t.reg 0 == 5 && t.reg 1 == 0x2000 && t.reg 2 == 0 && t.reg 3 == 0x2203 && t.reg 4 == 0 && t.reg 5 ==
    0x3003 && codes t false false true true) = true := by
  decide +kernel
/-- R405: `BITL #15, R1`. -/
theorem test_bitl : lands [0xD3, 0x0F, 0x51] (machine 0x41F0001 [(1, 0xF0)] []) (fun t =>
    t.reg 1 == 0xF0 && codes t false true false true) = true := by decide +kernel

/-- R413: `ADDB3 #^X80, R1, R2`, whose sum overflows and carries. -/
theorem test_addb3 : lands [0x81, 0x8F, 0x80, 0x51, 0x52] (kernel [(1, 0x12345680), (2, 0x12345678)] []) (fun t =>
    t.reg 2 == 0x12345600 && t.reg 1 == 0x12345680 && codes t false true true true) = true := by decide +kernel

/-- R413, R372: the same with IV set traps with code 1 after completion. -/
theorem test_addb3_traps : lands [0x81, 0x8F, 0x80, 0x51, 0x52]
    (machine 0x41F0020 [(1, 0x80)] [(0x34, [0, 0x50, 0, 0])]) (fun t =>
    t.reg 2 == 0 && t.pc == 0x5000 && stack t 0 1 && stack t 4 0x1005 && stack t 8 0x41F0027) = true := by decide +kernel

/-- R481: `BGTRU .+6`, taken when N alone is set. -/
theorem test_bgtru : lands [0x1A, 6] (machine 0x41F0008 [] []) (fun t => t.pc == 0x1008 && t.psl == 0x41F0008) = true := by
  decide +kernel

/-- R491: only bit 0 is tested by `BLBS R0, .+5`. -/
theorem test_blbs : lands [0xE8, 0x50, 5] (kernel [(0, 0xFFFFFFFE)] []) (fun t => t.pc == 0x1003) = true := by decide +kernel

/-- R501: `CASEB R0, #5, #2` takes its table's last entry. -/
theorem test_caseb : lands [0x8F, 0x50, 5, 2, 0x10, 0, 0x20, 0, 0xF0, 0xFF] (kernel [(0, 7)] []) (fun t =>
    t.pc == 0xFF4 && codes t false true false false) = true := by decide +kernel

/-- R501: past the limit PC moves over the table. -/
theorem test_caseb_falls_through : lands [0x8F, 0x50, 5, 2, 0x10, 0, 0x20, 0, 0xF0, 0xFF] (kernel [(0, 8)] []) (fun t =>
    t.pc == 0x100A && codes t false false false false) = true := by decide +kernel

/-- R506: `CALLS #2, @#^X2000` with SP two bytes above a longword boundary. -/
theorem test_calls : lands [0xFB, 2, 0x9F, 0, 0x20, 0, 0]
    (machine 0x41F0048 [(14, 0x60FF6), (12, 0xAAAA0000), (13, 0xBBBB0000), (2, 0x22222222), (3, 0x33333333)]
      [(0x2000, [0x0C, 0x40])])
    (fun t => t.pc == 0x2002 && t.sp == 0x60FD4 && t.reg 13 == 0x60FD4 && t.reg 12 == 0x60FF2 && t.psl == 0x41F0020 &&
      stack t 0 0 && stack t 4 0xA00C0040 && stack t 8 0xAAAA0000 && stack t 12 0xBBBB0000 && stack t 16 0x1007 &&
      stack t 20 0x22222222 && stack t 24 0x33333333 && t.memLong 0x60FF2 == some 2) = true := by decide +kernel

/-- R507: RET from the frame of the test above. -/
theorem test_ret : lands [4]
    (machine 0x41F0021 [(14, 0x60FB4), (13, 0x60FD4)] [(0x60FD4, [0, 0, 0, 0, 0x40, 0, 0x0C, 0xA0, 0, 0, 0xAA, 0xAA, 0, 0, 0xBB,
      0xBB, 7, 0x10, 0, 0, 0x22, 0x22, 0x22, 0x22, 0x33, 0x33, 0x33, 0x33, 0, 0, 2, 0, 0, 0])])
    (fun t => t.pc == 0x1007 && t.sp == 0x60FFE && t.reg 13 == 0xBBBB0000 && t.reg 12 == 0xAAAA0000 &&
      t.reg 2 == 0x22222222 && t.reg 3 == 0x33333333 && t.psl == 0x41F0040) = true := by decide +kernel

/-- R563: MOVPSL is not privileged. -/
theorem test_movpsl : lands [0xDC, 0x50] (machine 0x03C00009 [] []) (fun t => t.reg 0 == 0x03C00009 && t.psl == 0x03C00009) =
    true := by decide +kernel

/-- R509. -/
theorem test_nop : lands [1] (kernel [] []) (fun t => t.pc == 0x1001) = true := by decide +kernel

/-- R323: `CHMK #7` from user mode; the user stack pointer is saved. -/
theorem test_chmk : lands [0xBC, 7] (machine 0x03C00005 [(14, 0x7F000)] [(0x40, [0, 0x50, 0, 0])]) (fun t =>
    t.sp == 0x7FFF4 && stack t 0 7 && stack t 4 0x1002 && stack t 8 0x03C00005 && t.psl == 0x00C00000 && t.pc == 0x5000 &&
      t.getSp 3 == 0x7F000) = true := by decide +kernel

/-- R322: a change mode on the interrupt stack halts. -/
theorem test_chmk_halts : lands [0xBC, 7] (kernel [] []) (fun t => t.run.halted && t.run.why == .chmError) = true := by
  decide +kernel

/-- R500: REI from kernel to user mode at ASTLVL 3 requests the AST interrupt. -/
theorem test_rei : lands [2]
    ((fun s : State => { s with spb := s.spb.set 3 0x50000, ipr := { s.ipr with astlvl := 3 } })
      (machine 0 [(14, 0x60FF8)] [(0x60FF8, [0x34, 0x12, 0, 0, 0, 0, 0xC0, 3])]))
    (fun t => t.pc == 0x1234 && t.psl == 0x03C00000 && t.sp == 0x50000 && t.getSp 0 == 0x61000 && t.ipr.sisr == 4) = true := by
  decide +kernel

/-- R500: a gain of privilege is a reserved operand fault, vector 18. -/
theorem test_rei_refused : lands [2]
    (machine 0x03C00000 [(14, 0x60FF8)] [(0x60FF8, [0x34, 0x12, 0, 0, 0, 0, 0, 0]), (0x18, [0, 0x50, 0, 0])])
    (fun t => t.pc == 0x5000 && stack t 0 0x1000 && stack t 4 0x03C00000 && t.getSp 3 == 0x60FF8) = true := by decide +kernel

/-- R508: BPT saves its own PC. -/
theorem test_bpt : lands [3] (kernel [] [(0x2C, [0, 0x50, 0, 0])]) (fun t =>
    t.pc == 0x5000 && stack t 0 0x1000 && stack t 4 0x41F0000) = true := by decide +kernel

/-- R332: HALT in kernel mode. -/
theorem test_halt : lands [0] (machine 0x001F0000 [] []) (fun t =>
    t.run.halted && t.pc == 0x1001 && t.psl == 0x001F0000 && !t.console.programIo) = true := by decide +kernel

/-- R332: HALT in user mode is a fault through vector 10. -/
theorem test_halt_user : lands [0] (machine 0x03C00000 [] [(0x10, [0, 0x50, 0, 0])]) (fun t =>
    t.pc == 0x5000 && stack t 0 0x1000 && stack t 4 0x03C00000 && !t.run.halted) = true := by decide +kernel

/-- R330: `MTPR #8, #IPL` in kernel mode. -/
theorem test_mtpr : lands [0xDA, 8, 0x12] (kernel [] []) (fun t => t.psl == 0x04080000) = true := by decide +kernel

/-- R331: `MFPR #0, R0` reads the active kernel stack pointer. -/
theorem test_mfpr : lands [0xDB, 0, 0x50] (machine 0 [(14, 0x60000)] []) (fun t => t.reg 0 == 0x60000 && codes t false false false
    false) = true := by decide +kernel

/-- R647: `POLYF #2, #2, @#^X3000`: x squared plus 2x plus 3 is 11 at 2. -/
theorem test_polyf : lands [0x55, 0x10, 2, 0x9F, 0, 0x30, 0, 0]
    (kernel [] [(0x3000, [0x80, 0x40, 0, 0, 0, 0x41, 0, 0, 0x40, 0x41, 0, 0])]) (fun t =>
    t.reg 0 == 0x4230 && t.reg 1 == 0 && t.reg 2 == 0 && t.reg 3 == 0x300C && codes t false false false false) = true := by
  decide +kernel

/-- R678: `LOCC #44, #3, (R6)`. -/
theorem test_locc : lands [0x3A, 0x2C, 3, 0x66] (kernel [(6, 0x2000)] [(0x2000, [0x41, 0x2C, 0x42])]) (fun t =>
    t.reg 0 == 2 && t.reg 1 == 0x2001 && codes t false false false false) = true := by decide +kernel

/-- R679: SKPC passes over every byte of the string. -/
theorem test_skpc : lands [0x3B, 0x2C, 2, 0x66] (kernel [(6, 0x2000)] [(0x2000, [0x2C, 0x2C])]) (fun t =>
    t.reg 0 == 0 && t.reg 1 == 0x2002 && codes t false true false false) = true := by decide +kernel

/-- R676: `SCANC #4, (R6), (R8), #1` stops at a digit. -/
theorem test_scanc : lands [0x2A, 4, 0x66, 0x68, 1]
    (kernel [(6, 0x2000), (8, 0x4000)] [(0x2000, [0x41, 0x42, 0x31, 0x32]), (0x4031, [1]), (0x4041, [2, 2])]) (fun t =>
    t.reg 0 == 2 && t.reg 1 == 0x2002 && t.reg 2 == 0 && t.reg 3 == 0x4000 && codes t false false false false) = true := by
  decide +kernel

/-- R677: `SPANC #4, (R6), (R8), #1` passes over digits. -/
theorem test_spanc : lands [0x2B, 4, 0x66, 0x68, 1]
    (kernel [(6, 0x2000), (8, 0x4000)] [(0x2000, [0x31, 0x32, 0x41, 0x42]), (0x4031, [1, 1]), (0x4041, [2, 2])]) (fun t =>
    t.reg 0 == 2 && t.reg 1 == 0x2002 && t.reg 2 == 0 && t.reg 3 == 0x4000 && codes t false false false false) = true := by
  decide +kernel

/-- R681: `MOVTC #3, (R6), #46, (R8), #5, (R7)`; the fill is not translated. -/
theorem test_movtc : lands [0x2E, 3, 0x66, 0x2E, 0x68, 5, 0x67]
    (kernel [(6, 0x2000), (7, 0x3000), (8, 0x4000)] [(0x2000, [0x61, 0x62, 0x63]), (0x4061, [0x41, 0x42, 0x43])]) (fun t =>
    bytes t 0x3000 [0x41, 0x42, 0x43, 0x2E, 0x2E] && t.reg 0 == 0 && t.reg 1 == 0x2003 && t.reg 3 == 0x4000 &&
      t.reg 5 == 0x3005 && codes t true false false true) = true := by decide +kernel

/-- R682: `MOVTUC #5, (R6), #44, (R8), #5, (R7)` meets its escape. -/
theorem test_movtuc : lands [0x2F, 5, 0x66, 0x2C, 0x68, 5, 0x67]
    (kernel [(6, 0x2000), (7, 0x3000), (8, 0x4000)] [(0x2000, [0x61, 0x62, 0x2C, 0x63, 0x64]), (0x402C, [0x2C]),
      (0x4061, [0x41, 0x42, 0x43, 0x44])]) (fun t =>
    bytes t 0x3000 [0x41, 0x42, 0] && t.reg 0 == 3 && t.reg 1 == 0x2002 && t.reg 4 == 3 && t.reg 5 == 0x3002 &&
      codes t false true true false) = true := by decide +kernel

/-- R698: `CVTPT #3, (R6), (R8), #3, (R7)` of -123; the last byte goes through the table. -/
theorem test_cvtpt : lands [0x24, 3, 0x66, 0x68, 3, 0x67]
    (kernel [(6, 0x2000), (7, 0x3000), (8, 0x4000)] [(0x2000, [0x12, 0x3D]), (0x403D, [0x73])]) (fun t =>
    bytes t 0x3000 [0x31, 0x32, 0x73] && t.reg 0 == 0 && t.reg 1 == 0x2000 && t.reg 2 == 0 && t.reg 3 == 0x3000 &&
      codes t true false false false) = true := by decide +kernel

/-- R699: `CVTTP #3, (R6), (R8), #3, (R7)` of -123. -/
theorem test_cvttp : lands [0x26, 3, 0x66, 0x68, 3, 0x67]
    (kernel [(6, 0x2000), (7, 0x3000), (8, 0x4000)] [(0x2000, [0x31, 0x32, 0x73]), (0x4073, [0x3D])]) (fun t =>
    bytes t 0x3000 [0x12, 0x3D] && t.reg 0 == 0 && t.reg 1 == 0x2000 && t.reg 2 == 0 && t.reg 3 == 0x3000 &&
      codes t true false false false) = true := by decide +kernel

/-! ### Stacks and adapters -/

/-- 20_memory.md R230, D19: `MOVL R0, -(SP)` with SP 0 addresses the end of I/O space. -/
theorem test_stack_stepped_into_io :
    (match exec (.movl (.reg 0) (.base (.autoDec 14))) (kernel [(14, 0)] []) with
      | .refused .ioSpaceReference => true
      | _ => false) = true := by decide +kernel

/-- 60_exceptions.md R1205: an interrupt stack where no memory answers. -/
theorem test_interrupt_stack_memory_error :
    (match initiate ⟨0x2C, [], 0x1000, 0x041F0000, none, none⟩ (kernel [(14, 0x200000)] []) with
      | .next t => t.run.halted && t.run.why == .intStackInvalid
      | _ => false) = true := by decide +kernel

/-- The machine after reset, its UNIBUS ready, with a device that answers at 3F000 (octal 770000). -/
def withUnibus : State :=
  let s := State.resetOf { Config.Params.default with ubas := [{ tr := 3, num := 0, level := 5, devices := [[0x3F000]] }] }
  s.onUba 0 fun u => { u with phase := .ready }

/-- 65_uba.md R912, R914: a word written at a device is acknowledged, then made on the UNIBUS; one written where no device
answers sets UBSSYNTO later. -/
theorem test_unibus_write :
    [((0x2013F000 : Word), [Output.unibusWord 0 0x3F000 0x1234], (0 : Nat)), (0x2013E000, [], 1)].all (fun (pa, out, uasr) =>
      match storeVirtIn 0 true false pa 2 0x1234 withUnibus with
      | .ok _ t => t.outputs == withUnibus.outputs &&
          match step { t with agenda := [.unibus 0 .posted] } with
          | .next u => u.outputs == out ++ withUnibus.outputs && u.bus.ubas.map (·.uasr.toNat) == [uasr]
          | _ => false
      | _ => false) = true := by decide +kernel

/-- 66_mba.md R1010: the AC LO of an adapter's supply asserted: PD set, PU reset. -/
theorem test_massbus_power_down :
    (match step { State.reset with agenda := [.mbaPower 0 false] } with
      | .next t => t.bus.mbas.map (fun m => (m.pd, m.pu)) == [(true, false)]
      | _ => false) = true := by decide +kernel

/-! ### The hypotheses of the statements can be met

For each statement of Obligations.lean with hypotheses, states and operands that meet them all together, clause by clause.
`runs m s k` says that the computation m, run in s, ends well with a value a and a state t, and that k a t holds: a chain of
them is a conjunction of hypotheses `m s = .ok a t`. -/

def runs {α : Type} (m : M α) (s : State) (k : α → State → Bool) : Bool :=
  match m s with
  | .ok a t => k a t
  | .error _ _ => false

theorem runs_iff {α : Type} (m : M α) (s : State) (k : α → State → Bool) :
    runs m s k = true ↔ ∃ a t, m s = .ok a t ∧ k a t = true := by
  unfold runs
  constructor
  · intro h
    split at h
    · exact ⟨_, _, by assumption, h⟩
    · cases h
  · rintro ⟨a, t, h, hk⟩
    rw [h]
    exact hk

/-- The computation ends well. -/
def ends {α : Type} (m : M α) (s : State) : Bool := runs m s fun _ _ => true

/-- R1 is 5, R2 and R3 point to memory, R4 is -1, R6 is the most negative longword; IV set. -/
def w0 : State := machine 0x041F0020 [(1, 5), (2, 0x2000), (3, 0x3000), (4, 0xFFFFFFFF), (6, 0x80000000), (14, 0x10000)]
  [(0x2000, [0x12, 0x3C, 0x56, 0x78, 0x9A, 0xBC, 0xDE, 0xF0])]

/-- A read operand in memory, with its register stepped, one in a register, and a literal. -/
def sources : List Spec := [.base (.autoInc 2), .reg 4, .lit 63]

/-- A written operand in memory and one in registers. -/
def places : List Spec := [.base (.dispB 3 4), .reg 10]

def metClears (w : Nat) : Bool := places.all fun dst => runs (writeOp w dst) w0.opened fun l u =>
  ends (storeOp l (0 : BitVec w)) u

def metUnary (v w : Nat) (f : BitVec v → CC → Want w) : Bool := sources.all fun src => places.all fun dst =>
  runs (readOp v src) w0.opened fun a s1 => runs (writeOp w dst) s1 fun l u => ends (storeOp l (f a w0.cc).r) u

/-- A modify operand is found, through page tables in main memory (ModifyMapped). -/
def modifyFound (w : Nat) (io : Bool) (dst : Spec) (s : State) : Bool := runs (locate .modify (intType w) io dst) s fun l m =>
  match l with
  | .mem ea => ends (translateRange false ea (w / 8) true m.cur) m
  | _ => true

def metModify1 (w : Nat) (f : BitVec w → Want w) : Bool := places.all fun dst => modifyFound w (intIo w) dst w0.opened &&
  runs (modifyOp w dst) w0.opened fun (l, a) u => ends (storeBack l (f a).r) u

def metBinary2 (w : Nat) (f : BitVec w → BitVec w → CC → Want w) (io : Bool := intIo w) : Bool :=
  sources.all fun src => places.all fun dst => runs (readOp w src io) w0.opened fun a s1 => modifyFound w io dst s1 &&
    runs (modifyOp w dst io) s1 fun (l, b) u => ends (storeBack l (f a b w0.cc).r io) u

def metBinary3 (w : Nat) (f : BitVec w → BitVec w → CC → Want w) (io : Bool := intIo w) : Bool :=
  sources.all fun src => places.all fun dst => runs (readOp w src io) w0.opened fun a s1 =>
    runs (readOp w src io) s1 fun b s2 => runs (writeOp w dst io) s2 fun l u => ends (storeOp l (f a b w0.cc).r io) u

def metShifts (w : Nat) (f : Byte → BitVec w → CC → Want w) : Bool := sources.all fun src => places.all fun dst =>
  runs (readOp 8 (.reg 4) false) w0.opened fun k s1 => runs (readOp w src false) s1 fun a s2 =>
  runs (writeOp w dst false) s2 fun l u => ends (storeOp l (f k a w0.cc).r false) u

def metCompare2 (w : Nat) : Bool := sources.all fun src => sources.all fun src' =>
  runs (readOp w src) w0.opened fun _ s1 => ends (readOp w src') s1

def metTest1 (w : Nat) : Bool := sources.all fun src => ends (readOp w src) w0.opened

theorem witness_MovesComplete :
    metUnary 8 8 wantMove ∧ metUnary 16 16 wantMove ∧ metUnary 32 32 wantMove ∧ metUnary 64 64 wantMove ∧
    metUnary 8 8 (fun a => wantMove (~~~a)) ∧ metUnary 16 16 (fun a => wantMove (~~~a)) ∧
    metUnary 32 32 (fun a => wantMove (~~~a)) ∧ metClears 8 ∧ metClears 16 ∧ metClears 32 ∧ metClears 64 := by
  decide +kernel

/-- Of the last two lines: an operand whose result overflows, so that the enabled trap is due. -/
theorem witness_ConversionsComplete :
    metUnary 8 8 (fun a _ => wantNegate a) ∧ metUnary 16 16 (fun a _ => wantNegate a) ∧
    metUnary 32 32 (fun a _ => wantNegate a) ∧ metUnary 8 16 (wantZext 16) ∧ metUnary 8 32 (wantZext 32) ∧
    metUnary 16 32 (wantZext 32) ∧ metUnary 8 16 (fun a _ => wantExact 16 a.toInt) ∧
    metUnary 8 32 (fun a _ => wantExact 32 a.toInt) ∧ metUnary 16 32 (fun a _ => wantExact 32 a.toInt) ∧
    metUnary 16 8 (fun a _ => wantExact 8 a.toInt) ∧ metUnary 32 8 (fun a _ => wantExact 8 a.toInt) ∧
    metUnary 32 16 (fun a _ => wantExact 16 a.toInt) ∧
    runs (readOp 32 (.reg 6)) w0.opened (fun a _ => (wantNegate a).trap (w0.pslBit pslIV) == some 1) ∧
    runs (readOp 32 (.reg 6)) w0.opened (fun a _ => (wantExact 16 a.toInt).trap (w0.pslBit pslIV) == some 1) := by
  decide +kernel

theorem witness_ComparesComplete :
    metCompare2 8 ∧ metCompare2 16 ∧ metCompare2 32 ∧ metTest1 8 ∧ metTest1 16 ∧ metTest1 32 := by decide +kernel

theorem witness_SumsComplete :
    metModify1 8 (wantSum · 1 false) ∧ metModify1 16 (wantSum · 1 false) ∧ metModify1 32 (wantSum · 1 false) ∧
    metModify1 8 (wantDifference · 1 false) ∧ metModify1 16 (wantDifference · 1 false) ∧
    metModify1 32 (wantDifference · 1 false) ∧
    metBinary2 8 (fun a b _ => wantSum b a false) ∧ metBinary2 16 (fun a b _ => wantSum b a false) ∧
    metBinary2 32 (fun a b _ => wantSum b a false) ∧ metBinary2 32 (fun a b old => wantSum b a old.c) ∧
    metBinary2 32 (fun a b old => wantDifference b a old.c) ∧
    metBinary3 8 (fun a b _ => wantSum a b false) ∧ metBinary3 16 (fun a b _ => wantSum a b false) ∧
    metBinary3 32 (fun a b _ => wantSum a b false) ∧
    metBinary2 8 (fun a b _ => wantDifference b a false) ∧ metBinary2 16 (fun a b _ => wantDifference b a false) ∧
    metBinary2 32 (fun a b _ => wantDifference b a false) ∧ metBinary3 8 (fun a b _ => wantDifference b a false) ∧
    metBinary3 16 (fun a b _ => wantDifference b a false) ∧ metBinary3 32 (fun a b _ => wantDifference b a false) ∧
    runs (readOp 32 (.reg 6)) w0.opened (fun a s => runs (readOp 32 (.reg 4)) s fun b _ =>
      (wantSum b a false).trap (w0.pslBit pslIV) == some 1 && (wantDifference b b false).trap (w0.pslBit pslIV) == none) := by
  decide +kernel

/-- The last line: a zero divisor, and the quotient that overflows. -/
theorem witness_ProductsComplete :
    metBinary2 8 (fun a b _ => wantExact 8 (b.toInt * a.toInt)) false ∧
    metBinary2 16 (fun a b _ => wantExact 16 (b.toInt * a.toInt)) false ∧
    metBinary2 32 (fun a b _ => wantExact 32 (b.toInt * a.toInt)) false ∧
    metBinary3 8 (fun a b _ => wantExact 8 (b.toInt * a.toInt)) false ∧
    metBinary3 16 (fun a b _ => wantExact 16 (b.toInt * a.toInt)) false ∧
    metBinary3 32 (fun a b _ => wantExact 32 (b.toInt * a.toInt)) false ∧
    metBinary2 8 (fun a b _ => wantQuotient a b) false ∧
    metBinary2 16 (fun a b _ => wantQuotient a b) false ∧
    metBinary2 32 (fun a b _ => wantQuotient a b) false ∧
    metBinary3 8 (fun a b _ => wantQuotient a b) false ∧
    metBinary3 16 (fun a b _ => wantQuotient a b) false ∧
    metBinary3 32 (fun a b _ => wantQuotient a b) false ∧
    runs (readOp 32 (.reg 6)) w0.opened (fun b s => runs (readOp 32 (.reg 4)) s fun a _ =>
      (wantQuotient a b).trap (w0.pslBit pslIV) == some 1 && (wantQuotient 0 b).trap false == some 2 &&
      (wantQuotient b a).trap (w0.pslBit pslIV) == none) := by decide +kernel

theorem witness_LogicalsComplete :
    metBinary2 8 (fun a b => wantMove (b ||| a)) ∧ metBinary2 16 (fun a b => wantMove (b ||| a)) ∧
    metBinary2 32 (fun a b => wantMove (b ||| a)) ∧ metBinary3 8 (fun a b => wantMove (b ||| a)) ∧
    metBinary3 16 (fun a b => wantMove (b ||| a)) ∧ metBinary3 32 (fun a b => wantMove (b ||| a)) ∧
    metBinary2 8 (fun a b => wantMove (b &&& ~~~a)) ∧ metBinary2 16 (fun a b => wantMove (b &&& ~~~a)) ∧
    metBinary2 32 (fun a b => wantMove (b &&& ~~~a)) ∧ metBinary3 8 (fun a b => wantMove (b &&& ~~~a)) ∧
    metBinary3 16 (fun a b => wantMove (b &&& ~~~a)) ∧ metBinary3 32 (fun a b => wantMove (b &&& ~~~a)) ∧
    metBinary2 8 (fun a b => wantMove (b ^^^ a)) ∧ metBinary2 16 (fun a b => wantMove (b ^^^ a)) ∧
    metBinary2 32 (fun a b => wantMove (b ^^^ a)) ∧ metBinary3 8 (fun a b => wantMove (b ^^^ a)) ∧
    metBinary3 16 (fun a b => wantMove (b ^^^ a)) ∧ metBinary3 32 (fun a b => wantMove (b ^^^ a)) := by decide +kernel

theorem witness_ShiftsComplete :
    metShifts 32 (fun k a _ => wantShift k a) ∧ metShifts 64 (fun k a _ => wantShift k a) ∧ metShifts 32 wantRotate ∧
    runs (readOp 32 (.reg 6)) w0.opened (fun a _ => (wantShift 1 a).trap (w0.pslBit pslIV) == some 1) := by decide +kernel

/-- Addressable operands: deferred, stepped, indexed, absolute. -/
def addresses : List Spec := [.base (.regDef 2), .base (.autoDec 3), .index 1 (.dispB 2 4), .base (.abs 0x2004)]

def metPushes (value : Spec → M Word) (srcs : List Spec) : Bool := srcs.all fun src =>
  runs (value src) w0.opened fun a u => ends (pushMapped a) u

theorem witness_AddressesComplete :
    [DType.b, .w, .l, .q].all (fun ty => addresses.all fun src => places.all fun dst =>
      runs (addressOp ty true src) w0.opened fun a s1 => runs (writeOp 32 dst) s1 fun l u => ends (storeOp l a) u) ∧
    metPushes (readOp 32) sources ∧ metPushes (addressOp .b true) addresses ∧ metPushes (addressOp .w true) addresses ∧
    metPushes (addressOp .l true) addresses ∧ metPushes (addressOp .q true) addresses ∧
    Memory.wf w0.mem = true := by decide +kernel

/-- The word in a register; at 2000, with the interlock free and held; in a memory controller's register; at 2001. -/
theorem witness_AdawiCompletes :
    runs (readOp 16 (.reg 1) true) w0.opened (fun a s1 =>
      runs (locate .modify .w true (.reg 10)) s1 (fun l s2 =>
        l == .reg 10 && ends (storeBack l (wantSum ((s2.reg 10).setWidth 16) a false).r true) s2) &&
      runs (locate .modify .w true (.base (.regDef 2))) s1 (fun l s2 => l == .mem 0x2000 && !s2.bus.intlk &&
        runs (loadInterlocked 0x2000) s2 fun b u => ends (storeBack l (wantSum b a false).r true) u) &&
      runs (locate .modify .w true (.base (.abs 0x20002000))) s1 (fun l s2 => l == .mem 0x20002000 && !s2.bus.intlk &&
        runs (translateRange true 0x20002000 2 true s2.cur) s2 fun pas _ =>
          pas.any fun pa => decide (ioBase ≤ pa ∧ (pa < 0x20100000 ∨ 0x20200000 ≤ pa))) &&
      runs (locate .modify .w true (.base (.dispB 2 1))) s1 fun l _ => l == .mem 0x2001) ∧
    runs (readOp 16 (.reg 1) true) { w0.opened with bus := { w0.bus with intlk := true } } (fun _ s1 =>
      runs (locate .modify .w true (.base (.regDef 2))) s1 fun l s2 => l == .mem 0x2000 && s2.bus.intlk) := by decide +kernel

/-- With the divisors 5, 0, and -1 of the least dividend, whose quotient overflows. -/
theorem witness_ExtendedComplete :
    places.all (fun prod => runs (readOp 32 (.reg 6) false) w0.opened fun a s1 => runs (readOp 32 (.reg 6) false) s1 fun b s2 =>
      runs (readOp 32 (.reg 6) false) s2 fun c s3 => runs (writeOp 64 prod false) s3 fun l u =>
        ends (storeOp l (BitVec.ofInt 64 (a.toInt * b.toInt + c.toInt)) false) u) ∧
    [(Spec.reg 1, (none : Option Word)), (.lit 0, some 2), (.reg 4, some 1)].all (fun (divr, trap) =>
      [(Spec.reg 10, Spec.reg 11), (.base (.regDef 3), .base (.dispB 3 4))].all fun (quo, rem) =>
      runs (readInt 32 false divr) w0.opened fun d s1 =>
      runs (readInt 64 false (.base (.imm (if trap == none then 17 else 0x8000000000000000)))) s1 fun n s2 =>
      runs (locate .write .l false quo) s2 fun lq s3 => runs (locate .write .l false rem) s3 fun lr s4 =>
      runs (checkStore false 32 lq) s4 fun _ s5 => runs (checkStore false 32 lr) s5 fun _ u =>
      runs (storeLoc false false lq (wantExtendedQuotient d n).1.r) u fun _ v =>
        ends (storeLoc false false lr (wantExtendedQuotient d n).2) v &&
        (wantExtendedQuotient d n).1.trap (w0.pslBit pslIV) == trap) := by decide +kernel

theorem witness_SubroutinesComplete :
    addresses.all (fun dst => runs (addressOp .b false dst) w0.opened fun _ u => ends (push u.pc) u) ∧
    ends (push (w0.setPc (w0.pc + 2)).pc) (w0.setPc (w0.pc + 2)) ∧
    ends (push (w0.setPc (w0.pc + 3)).pc) (w0.setPc (w0.pc + 3)) ∧ ends (memReadLong w0.sp) w0.opened := by decide +kernel

def metAddCompares (w : Nat) (add : Spec) (trap : Option Word) : Bool :=
  [Spec.reg 6, .base (.regDef 3)].all fun idx =>
    runs (readInt w false (.reg 1)) w0.opened fun _ s1 => runs (readInt w false add) s1 fun a s2 =>
    runs (modifyInMemory w (intType w) idx) s2 fun (l, i) s3 =>
      let x := wantIndex (wantSum i a false) w0.cc
      ends (storeLoc false false l x.r) (s3.setPc (s3.pc + 2)) &&
        (idx != .reg 6 || w != 32 || x.trap (w0.pslBit pslIV) == trap)

theorem witness_LoopsAndCasesComplete :
    metTest1 32 ∧ metAddCompares 8 (.reg 1) none ∧ metAddCompares 16 (.reg 4) none ∧ metAddCompares 32 (.reg 1) none ∧
    metAddCompares 32 (.reg 4) (some 1) ∧
    runs (readInt 32 false (.reg 1)) w0.opened (fun _ s1 => runs (modifyInMemory 32 .l (.reg 4)) s1 fun (l, i) s2 =>
      ends (storeLoc false false l (wantIndex (wantSum i 1 false) w0.cc).r) (s2.setPc (s2.pc + 1))) ∧
    runs (modifyInMemory 32 .l (.reg 6)) w0.opened (fun (l, i) s1 =>
      (wantIndex (wantDifference i 1 false) w0.cc).trap (w0.pslBit pslIV) == some 1 &&
      ends (storeLoc false false l (wantIndex (wantDifference i 1 false) w0.cc).r) (s1.setPc (s1.pc + 1))) ∧
    [8, 16, 32].all (fun w =>
      runs (readOp w (.reg 1)) w0.opened fun sel s1 => runs (readOp w (.lit 0)) s1 fun b s2 =>
        runs (readOp w (.lit 5)) s2 (fun lim t => decide ((sel - b).toNat = lim.toNat) &&
          ends (fetchWord (t.pc + BitVec.ofNat 32 (2 * (sel - b).toNat))) t) &&
        runs (readOp w (.lit 4)) s2 fun lim _ => decide (lim.toNat < (sel - b).toNat)) := by decide +kernel

/-- A procedure at 2200 whose mask is 400C, one at 2210 whose mask has bit 12 set, and a CALLS frame at 8000. -/
def w1 : State := machine 0x041F0000 [(13, 0x8000), (14, 0x10002)]
  [(0x2200, [0x0C, 0x40]), (0x2210, [0, 0x10]), (0x8004, [0x40, 0, 0x0C, 0xA0]), (0x8010, [0x34, 0x12]), (0x801E, [2])]

/-- The hypotheses of Enters. -/
def metEnters (calls : Bool) (m : Nat) (u : State) : Bool :=
  let x := u.setReg rSP (u.sp &&& 0xFFFFFFFC)
  let vs := callPushes calls (BitVec.ofNat 16 m) u
  runs (checkPushes vs.length x.sp) x fun _ v => ends (pushAllIn u.cur false vs) v

theorem witness_ProceduresComplete :
    runs (addressOp .b false r2) w1.opened (fun _ s1 =>
      runs (addressOp .b false (.base (.abs 0x2200))) s1 (fun d s2 => runs (memReadN d 2) s2 fun m u =>
        m / 4096 % 4 == 0 && metEnters false m u) &&
      runs (addressOp .b false (.base (.abs 0x2210))) s1 (fun d s2 => runs (memReadN d 2) s2 fun m _ => m / 4096 % 4 != 0)) ∧
    runs (readInt 32 false (.lit 2)) w1.opened (fun n s1 => runs (addressOp .b false (.base (.abs 0x2200))) s1 fun d s2 =>
      runs (push n) s2 fun _ s3 => runs (memReadN d 2) s3 fun m u => m / 4096 % 4 == 0 && metEnters true m u) ∧
    runs (readInt 32 false (.lit 2)) w1.opened (fun n s1 => runs (addressOp .b false (.base (.abs 0x2210))) s1 fun d s2 =>
      runs (push n) s2 fun _ s3 => runs (memReadN d 2) s3 fun m _ => m / 4096 % 4 != 0) ∧
    runs pop ((storeBytes w1 0x8005 [1]).opened.setReg rSP (w1.reg rFP + 4)) (fun tmp _ => tmp.toNat / 256 % 256 != 0) ∧
    [w1, storeBytes w1 0x8007 [0x80]].all (fun w =>
      runs pop (w.opened.setReg rSP (w.reg rFP + 4)) fun tmp s2 => tmp.toNat / 256 % 256 == 0 &&
      runs pop s2 fun ap s3 => runs pop (s3.setReg rAP ap) fun fp s4 => runs pop (s4.setReg rFP fp) fun _ s5 =>
      runs (popInto (maskRegs ((tmp.extractLsb' 16 12).setWidth 16) callRegs.reverse)) s5 fun _ s6 =>
        !tmp.getLsbD 29 || ends pop (s6.setReg rSP (s6.sp + (tmp.extractLsb' 30 2).setWidth 32))) := by decide +kernel

/-- The field that FieldIs describes, handed on with the state in which it has been read. -/
def metField (f : FieldRef) (u : State) (k : Nat → State → Bool) : Bool :=
  let n := f.size.toNat
  decide (n ≤ 32) &&
  if n = 0 then k 0 u
  else
    match f.base with
    | .const _ => false
    | .reg r => decide (f.pos.toNat < 32) && (r != rSP || decide (f.pos.toNat + n ≤ 32)) &&
        k (((u.reg (r + 1)).toNat * 2 ^ 32 + (u.reg r).toNat) / 2 ^ f.pos.toNat % 2 ^ n) u
    | .mem a =>
      let o := f.pos.toNat % 8
      runs (loadVirtIn u.cur false false false (a + f.pos.sshiftRight 3) ((o + n + 7) / 8)) u fun m v =>
        k (m / 2 ^ o % 2 ^ n) v

/-- Fields: of no bits, of 32 bits from bit 31 of a register on, of 1 bit, of 32 bits over five bytes of memory, and before
the base. -/
def fields : List (Spec × Spec × Spec) :=
  [(.lit 40, .lit 0, .reg 4), (.lit 31, .lit 32, .reg 6), (.lit 0, .lit 1, .reg 14), (.lit 7, .lit 32, .base (.regDef 2)),
    (.reg 4, .lit 9, .base (.dispB 2 1))]

def metExtracts (value : Nat → Nat → Word) : Bool := fields.all fun (pos, size, base) => places.all fun dst =>
  runs (fieldOperands pos size base) w0.opened fun f s1 => runs (writeOp 32 dst false) s1 fun l u =>
    metField f u fun x v => ends (storeOp l (value f.size.toNat x) false) v

def metFindsBit (want : Bool) : Bool := fields.all fun (pos, size, base) => places.all fun dst =>
  runs (fieldOperands pos size base) w0.opened fun f s1 => runs (writeOp 32 dst false) s1 fun l u =>
    metField f u fun x v => (List.range (f.size.toNat + 1)).any fun i =>
      (List.range i).all (fun j => x.testBit j != want) && (i == f.size.toNat || x.testBit i == want) &&
      ends (storeOp l (f.pos + BitVec.ofNat 32 i) false) v

theorem witness_FieldsComplete :
    metExtracts fieldSigned ∧ metExtracts fieldUnsigned ∧ metFindsBit true ∧ metFindsBit false ∧
    fields.all (fun (pos, size, base) => runs (fieldOperands pos size base) w0.opened fun f s1 =>
      runs (readOp 32 (.reg 4) false) s1 fun _ u => metField f u fun _ _ => true) ∧
    [(Spec.lit 0, Spec.lit 33, Spec.base (.regDef 2)), (.lit 32, .lit 1, .reg 6)].all (fun (pos, size, base) =>
      runs (fieldOperands pos size base) w0.opened fun f s1 =>
        (decide (32 < f.size.toNat) || (f.base == .reg 6 && f.size != 0 && decide (31 < f.pos.toNat))) &&
        ends (readOp 32 (.reg 4) false) s1 && places.all fun dst => ends (writeOp 32 dst false) s1) := by decide +kernel

/-- A field of 9 bits in memory gets the low-order bits of R4; then sizes 0, 32 and 33, positions 31 and 32. -/
theorem witness_InsvCompletes :
    runs (readInt 32 false (.reg 4)) w0.opened (fun a s1 =>
      runs (fieldOperands (.lit 7) (.lit 9) (.base (.regDef 2))) s1 fun f u =>
        f.size == 9 && f.base == .mem 0x2000 &&
        runs (loadVirtIn u.cur false false true (0x2000 + f.pos.sshiftRight 3) 2) u fun m v =>
          let m' := m ||| 0xFF80
          decide (m' < 256 ^ 2) &&
          (List.range 16).all (fun j => m'.testBit j == if 7 ≤ j ∧ j < 16 then a.getLsbD (j - 7) else m.testBit j) &&
          ends (storeVirtIn v.cur false false (0x2000 + f.pos.sshiftRight 3) 2 m') v) ∧
    runs (readInt 32 false (.reg 4)) w0.opened (fun _ s1 =>
      runs (fieldOperands (.lit 31) (.lit 0) (.reg 6)) s1 (fun f _ => f.size == 0) &&
      runs (fieldOperands (.lit 31) (.lit 32) (.reg 6)) s1 (fun f _ => f.size == 32 && f.pos == 31 && f.base == .reg 6) &&
      runs (fieldOperands (.lit 0) (.lit 32) (.reg 14)) s1 (fun f _ => f.size == 32 && f.pos == 0 && f.base == .reg rSP) &&
      runs (fieldOperands (.lit 0) (.lit 33) (.reg 6)) s1 (fun f _ => f.size == 33) &&
      runs (fieldOperands (.lit 32) (.lit 1) (.reg 6)) s1 fun f _ => f.size == 1 && f.pos == 32 && f.base == .reg 6) := by
  decide +kernel

/-- The interlock is held in the last line. -/
theorem witness_BitBranchesComplete :
    runs (readInt 32 false (.lit 32)) w0.opened (fun p s1 => runs (locate .field .b false (.reg 6)) s1 fun b _ =>
      b == .reg 6 && decide (31 < p.toNat)) ∧
    [(Spec.lit 31, Spec.reg 6), (.lit 63, .base (.regDef 2))].all (fun (pos, base) =>
      runs (readInt 32 false pos) w0.opened fun p s1 => runs (locate .field .b false base) s1 fun b s2 =>
        metField ⟨p, 1, b⟩ (s2.setPc (s2.pc + 1)) fun x _ => x < 2) ∧
    runs (readInt 32 false (.lit 63)) w0.opened (fun p s1 => runs (locate .field .b false (.base (.regDef 2))) s1 fun b s2 =>
      b == .mem 0x2000 && !s2.bus.intlk &&
      runs (loadVirtIn s2.cur false false true (0x2000 + p.sshiftRight 3) 1) (s2.setPc (s2.pc + 1)) fun m v =>
        [true, false].all fun new => ends (storeVirtIn v.cur false false (0x2000 + p.sshiftRight 3) 1
          (withBit (BitVec.ofNat 8 m) (p.toNat % 8) new).toNat) v) ∧
    runs (readInt 32 false (.lit 63)) { w0.opened with bus := { w0.bus with intlk := true } } (fun _ s1 =>
      runs (locate .field .b false (.base (.regDef 2))) s1 fun b s2 => b == .mem 0x2000 && s2.bus.intlk) := by decide +kernel

/-- A queue of one entry at 3010, its header at 3000. -/
def w2 : State := machine 0x041F0000 [(14, 0x10000)] [(0x3000, [0x10, 0x30, 0, 0, 0x10, 0x30, 0, 0]), (0x3010, [0, 0x30, 0, 0, 0, 0x30, 0, 0])]

theorem witness_QueuesComplete :
    runs (addressOp .b false (.base (.abs 0x3020))) w2.opened (fun e s1 =>
      runs (addressOp .b false (.base (.abs 0x3000))) s1 fun p s2 => !s2.bus.intlk &&
      runs (memReadLong p) s2 fun succ s3 => runs (probeWrite false e 8) s3 fun _ s4 =>
      runs (probeWrite false (succ + 4) 4) s4 fun _ s5 => runs (probeWrite false p 4) s5 fun _ u =>
      runs (memWriteLong e succ) u fun _ t1 => runs (memWriteLong (e + 4) p) t1 fun _ t2 =>
      runs (memWriteLong (succ + 4) e) t2 fun _ t3 => ends (memWriteLong p e) t3) ∧
    runs (addressOp .b false (.base (.abs 0x3010))) w2.opened (fun e s1 =>
      runs (writeOp 32 (.reg 3)) s1 fun l s2 => !s2.bus.intlk &&
      runs (memReadLong e) s2 fun succ s3 => runs (memReadLong (e + 4)) s3 fun p s4 =>
      runs (probeWrite false p 4) s4 fun _ s5 => runs (probeWrite false (succ + 4) 4) s5 fun _ s6 =>
      runs (checkStore true 32 l) s6 fun _ u => runs (memWriteLong p succ) u fun _ t1 =>
      runs (memWriteLong (succ + 4) p) t1 fun _ t2 => ends (storeOp l e) t2) ∧ Memory.wf w2.mem = true := by decide +kernel

theorem witness_RegisterSetsAndPswComplete :
    runs (readOp 16 (.base (.imm 0x7FFF)) false) w0.opened (fun m u =>
      let vs := (maskRegs m [14, 13, 12, 11, 10, 9, 8, 7, 6, 5, 4, 3, 2, 1, 0]).map u.reg
      runs (checkPushes vs.length u.sp) u (fun _ v => ends (pushAllIn u.cur false vs) v) &&
      ends (popInto (maskRegs m [0, 1, 2, 3, 4, 5, 6, 7, 8, 9, 10, 11, 12, 13, 14])) u) ∧
    places.all (fun dst => runs (writeOp 32 dst) w0.opened fun l u => ends (storeOp l w0.psl) u) ∧
    runs (readOp 16 (.base (.imm 0xFF))) w0.opened (fun m _ => decide (m.toNat < 256)) ∧
    runs (readOp 16 (.base (.imm 0x100))) w0.opened (fun m _ => decide (256 ≤ m.toNat)) := by decide +kernel

/-- The subscript is at its high bound, then one above it, then one below its low bound. -/
theorem witness_IndexCompletes :
    [(Spec.lit 5, true), (.lit 6, false), (.lit 0, false)].all (fun (subscript, inside) => places.all fun dst =>
      runs (readOp 32 subscript false) w0.opened fun sub s1 => runs (readOp 32 (.lit 1) false) s1 fun lo s2 =>
      runs (readOp 32 (.reg 1) false) s2 fun hi s3 => runs (readOp 32 (.lit 4) false) s3 fun sz s4 =>
      runs (readOp 32 (.lit 0) false) s4 fun i s5 => runs (writeOp 32 dst false) s5 fun l u =>
        ends (storeOp l (BitVec.ofInt 32 ((i.toInt + sub.toInt) * sz.toInt)) false) u &&
        decide (lo.toInt ≤ sub.toInt ∧ sub.toInt ≤ hi.toInt) == inside) := by decide +kernel

/-- A state with an SCB at 400: the vectors used lead to 5000, on the stack of the new mode but for 04 and 08, which lead to
the interrupt stack. -/
def scb (s : State) : State :=
  ([(0x04 : Nat), 0x08, 0x10, 0x14, 0x18, 0x20, 0x28, 0x2C, 0x34, 0x40, 0x44, 0x48, 0x4C, 0xC0].foldl
    (fun s v => storeBytes s (0x400 + v) [if v < 12 then 1 else 0, 0x50])
    { s with ipr := { s.ipr with scbb := 0x400 } }).sync

/-- Kernel mode on the process stack, user mode, and kernel mode on the interrupt stack. -/
def kernelProcess : State := scb (machine 0 [(14, 0x10000)] [])
def user : State := scb (machine 0x03C00000 [(14, 0x10000)] [])
def onInterruptStack : State := scb (machine 0x041F0000 [(14, 0x10000)] [])

/-- The hypotheses of Takes for an event. -/
def metTakes (e : Event) (s : State) : Bool :=
  runs (physReadLong true (s.ipr.scbb.toNat + e.vec)) s fun vector r =>
    let mode : Mode := e.chm.getD 0
    let onInt := e.chm.isNone && decide (vector.toNat % 4 = 1)
    (e.chm.isSome || decide (vector.toNat % 4 = 1) || (decide (vector.toNat % 4 = 0) && e.vec != 4 && e.vec != 8)) &&
      ends (pushAllIn mode true (e.psl :: e.pc :: e.params)) (r.eventStack onInt mode)

theorem witness_EventsEnter :
    [kernelProcess, user, onInterruptStack].all fun s =>
      metTakes ⟨0x20, [0x12345678, 4], s.pc, s.psl, none, none⟩ s && metTakes ⟨8, [], s.pc, s.psl, none, none⟩ s &&
      metTakes ⟨0xC0, [], s.pc, s.psl, some 0x18, none⟩ s &&
      metTakes ⟨0x4C, [7], s.pc, s.psl, none, some 0⟩ s && s.errs.memory == [] &&
      s.memLong (s.ipr.scbb.toNat + 0x20) == some 0x5000 := by decide +kernel

theorem witness_FaultingOpcodesAndHalt :
    [kernelProcess, user, onInterruptStack].all (fun s => [0x2C, 0x14, 0x10].all fun v =>
      metTakes ⟨v, [], s.pc, s.clearTp.psl, none, none⟩ s.clearTp) ∧ kernelProcess.cur = 0 ∧ user.cur ≠ 0 := by decide +kernel

theorem witness_ChangeModeCompletes :
    [kernelProcess, user].all (fun s => runs (readOp 16 (.base (.imm 0xFFFF))) s.opened fun c u => !u.onIntStack &&
      [0, 1, 2, 3].all fun om : Mode =>
        let mode : Mode := if om.toNat < s.cur.toNat then om else s.cur
        runs (checkPushesIn mode true 3 (u.getSp (modeStack mode))) u fun _ v =>
          metTakes ⟨0x40 + 4 * om.toNat, [c.signExtend 32], u.pc, s.psl, none, some mode⟩ v) ∧
    runs (readOp 16 (.lit 7)) onInterruptStack.opened (fun _ u => u.onIntStack) := by decide +kernel

/-- A return to user mode, one that stays on the interrupt stack, and one refused for a gain of privilege. -/
theorem witness_ReiCompletes :
    runs (memReadLong 0x10000) (storeBytes kernelProcess 0x10004 [0, 0, 0xC0, 3]).opened (fun _ v =>
      runs (memReadLong 0x10004) v fun new _ => new == 0x03C00000) ∧
    ReturnAllowed kernelProcess.psl 0x03C00000 ∧
    runs (memReadLong 0x10000) (storeBytes onInterruptStack 0x10004 [0, 0, 0x1F, 4]).opened (fun _ v =>
      runs (memReadLong 0x10004) v fun new _ => new == 0x041F0000) ∧
    ReturnAllowed onInterruptStack.psl 0x041F0000 ∧
    runs (memReadLong 0x10000) user.opened (fun _ v => runs (memReadLong 0x10004) v fun new _ => new == 0) ∧
    ¬ReturnAllowed user.psl 0 := by
  refine ⟨by decide +kernel, ⟨?_, ?_, ?_, ?_, ?_, ?_⟩, by decide +kernel, ⟨?_, ?_, ?_, ?_, ?_, ?_⟩, by decide +kernel,
    fun h => absurd h.cur ?_⟩ <;> decide +kernel

/-- ASTLVL written; P0LR, of the map, written once the buffer has kept its bytes; SID read; a number that does not exist. -/
theorem witness_RegisterMovesComplete :
    [kernelProcess, user].all (fun s => runs (readOp 32 (.lit 3)) s.opened fun v s1 =>
      runs (readOp 32 (.lit 19)) s1 (fun n u => ends (writeIpr n.toNat v) u) &&
      runs (readOp 32 (.lit 9)) s1 fun n u => n == 9 && runs keepPrefetched u fun _ x => ends (writeIpr n.toNat v) x) ∧
    runs (readOp 32 (.lit 5)) kernelProcess.opened (fun n s1 => runs (writeOp 32 (.reg 0)) s1 fun _ u =>
      (match readIpr n.toNat u with | .error (.fault 0x18 []) _ => true | _ => false)) ∧
    [kernelProcess, user].all (fun s => [Spec.reg 0, .base (.abs 0x3000)].all fun dst =>
      runs (readOp 32 (.lit 62)) s.opened fun n s1 => runs (writeOp 32 dst) s1 fun l u =>
      runs (checkStore true 32 l) u fun _ v => runs (readIpr n.toNat) v fun r x => ends (storeOp l r) x) ∧
    kernelProcess.cur = 0 ∧ user.cur ≠ 0 := by decide +kernel

/-- The longwords of a process control block: stacks at 20000 to 23000, no page tables, ASTLVL 4, PSL 03C00000. -/
def block : Nat → Word
  | 0 => 0x20000 | 1 => 0x21000 | 2 => 0x22000 | 3 => 0x23000
  | 18 => 0x1234 | 19 => 0x03C00000
  | 20 => 0x80000000 | 21 => 0x04000000 | 22 => 0x80000000 | 23 => 0
  | _ => 0

/-- The block at 6000, the base in PCBB. -/
def withBlock (s : State) : State :=
  (List.range 24).foldl (fun s k => storeBytes s (0x6000 + 4 * k) (leBytes 4 (block k).toNat))
    { s with ipr := { s.ipr with pcbb := 0x6000 } }

/-- The hypotheses on a context that is saved. -/
def metSave (s : State) : Bool :=
  runs (storeLongs s.ipr.pcbb.toNat ([s.getSp 0, s.getSp 1, s.getSp 2, s.getSp 3] ++
      [0, 1, 2, 3, 4, 5, 6, 7, 8, 9, 10, 11, rAP, rFP].map s.reg)) s.opened fun _ u =>
  runs pop u fun pc v1 => runs (physWriteLong (s.ipr.pcbb.toNat + 72) pc) v1 fun _ v2 => runs pop v2 fun psl v3 =>
  runs (physWriteLong (s.ipr.pcbb.toNat + 76) psl) v3 fun _ t =>
    s.onIntStack || ends (physWriteLong s.ipr.pcbb.toNat t.sp) t

/-- Blocks that the checks 0 to 4 fail, each passing those before. -/
def badBlocks : List ((Nat → Word) × Nat) :=
  [(20, 0x40000000, 0), (21, 0x08000000, 1), (21, 0x07000000, 2), (22, 0x40000000, 3), ((23, 0x00400000, 4) : Nat × Word × Nat)].map
    fun (i, v, n) => (fun k => if k = i then v else block k, n)

theorem witness_ContextSwitchCompletes :
    [withBlock onInterruptStack, withBlock kernelProcess].all (fun s =>
      s.cur == 0 && decide (s.ipr.pcbb.toNat < ioBase) &&
      (List.range 24).all (fun k => s.memLong (s.ipr.pcbb.toNat + 4 * k) == some (block k)) &&
      runs keepPrefetched s.opened (fun _ x => runs (checkPushes 2 (block 0)) (x.contextLoaded block) fun _ v =>
        v.memLong (s.ipr.pcbb.toNat + 76) == some (block 19) && runs (push (block 19)) v fun _ u =>
        u.memLong (s.ipr.pcbb.toNat + 72) == some 0x1234 && ends (push 0x1234) u) && metSave s) ∧
    (∀ ok ∈ contextChecks block, ok = true) ∧ user.cur ≠ 0 ∧ (withBlock kernelProcess).errs.memory = [] ∧
    badBlocks.all (fun (f, n) => (contextChecks f).findIdx? (· == false) == some n) := by decide +kernel

/-- R320: a block whose ASTLVL is 7: an abort through vector 18, PC at the LDPCTX, P0BR loaded, ASTLVL not. -/
theorem test_ldpctx_aborts :
    (match exec .ldpctx (storeBytes (withBlock kernelProcess) 0x6057 [7]) with
      | .next t => t.pc == 0x5000 && stack t 0 0x1000 && stack t 4 0 && t.sp == 0x1FFF8 && t.ipr.p0br == 0x80000000 &&
          t.ipr.astlvl == kernelProcess.ipr.astlvl
      | _ => false) = true := by decide +kernel

/-- Page tables: the system page table at 9000 with its pages 0 to 3, mapped to frames 40 (P0 page table), 41, 42 and 43 with
protections UW, UR, NA and KW (not valid). P0 page 0 is frame 50, UW, not modified; P0 page 1 is frame 51, UW, modified. -/
def paged (psl : Word) : State :=
  let s := scb (machine psl [(14, 0x80000800), (0, 0x200)]
    [(0x9000, leBytes 4 0xA0000040 ++ leBytes 4 0xF8000041 ++ leBytes 4 0x80000042 ++ leBytes 4 0x10000043),
      (0x40 * 512, leBytes 4 0xA0000050 ++ leBytes 4 0xA4000051)])
  { s with ipr := { s.ipr with mapen := true, sbr := 0x9000, slr := 4, p0br := 0x80000000, p0lr := 2 } }

/-- The second clause of ChangesMode: the kernel stack of `CHMK #7` ends at the page past the system page table. -/
theorem witness_ChangeModeFaults :
    runs (readOp 16 (.lit 7)) (paged 0).opened (fun _ u => !u.onIntStack &&
      match checkPushesIn 0 true 3 (u.getSp (modeStack 0)) u with
      | .error (.fault _ _) _ => true
      | _ => false) = true := by decide +kernel

/-- The tables of paged with another P0 base: 80000400 in a page that denies, 80000600 in one not valid, 80000800 outside. -/
def probing (p0br r0 : Word) : State :=
  let s := paged 0
  ({ s with ipr := { s.ipr with p0br := p0br } }).withRegs [(0, r0)]

/-- What stands before the first probe of `PROBEx #3, #4, (R0)`. -/
def probed (p0br r0 : Word) : State := (probing p0br r0).setPc 0x1004

theorem unbuffered (s : State) (h : s.tb = [] ∧ s.mapLog = [] ∧ s.errs.memory = []) (va : Word) : Unbuffered s va := fun e he => by
  simp [MayBeBuffered, h.1, h.2.1, oldPtes] at he

theorem held (s : State) (va pte : Word) (at_ : Nat) (sys : Option Nat) (m : s.memLong at_ = some pte)
    (h : s.tb = [] ∧ s.mapLog = [] ∧ s.errs.memory = []) : Held s va pte at_ sys := ⟨h.2.2, m, fun e he => absurd he (unbuffered s h va e)⟩

theorem finds_outside (write : Bool) (mode : Mode) : ProbeFinds (probed 0x80000600 0xFFFFFFFF) 0xFFFFFFFF write mode (some false) :=
  .outside (by decide +kernel) (by decide +kernel)

theorem finds_page (p0br r0 : Word) (h : p0br = 0x80000000) (g : r0 = 0x1FE) (write : Bool) :
    ProbeFinds (probed p0br r0) 0x1FE write 3 (some (modeMay 4 3 write)) ∧
    ProbeFinds (probed p0br r0) 0x201 write 3 (some (modeMay 4 3 write)) := by
  subst h g
  exact ⟨.process 0xA0000040 0xA0000050 (by decide +kernel) (by decide +kernel) (by decide +kernel) (by decide +kernel)
    (held _ _ _ _ _ (by decide +kernel) (by decide +kernel)) (by decide +kernel) (held _ _ _ _ _ (by decide +kernel) (by decide +kernel)) (by decide +kernel),
    .process 0xA0000040 0xA4000051 (by decide +kernel) (by decide +kernel) (by decide +kernel) (by decide +kernel)
    (held _ _ _ _ _ (by decide +kernel) (by decide +kernel)) (by decide +kernel) (held _ _ _ _ _ (by decide +kernel) (by decide +kernel)) (by decide +kernel)⟩

theorem finds_invalid (r0 va : Word) (h : r0 = 0 ∨ r0 = 0xFFFFFFFF) (g : va = 0 ∨ va = 2) (write : Bool) (mode : Mode) :
    ProbeFinds (probed 0x80000600 r0) va write mode none := by
  rcases h with rfl | rfl <;> rcases g with rfl | rfl <;>
  exact .tableInvalid 0x10000043 (by decide +kernel) (by decide +kernel) (by decide +kernel)
    (unbuffered _ (by decide +kernel) _) (by decide +kernel) (held _ _ _ _ _ (by decide +kernel) (by decide +kernel)) (by decide +kernel) (by decide +kernel)
    (by decide +kernel)

/-- Every case of what a probe finds, and the operands of a probe of two pages, of one whose first address has no valid table
and of one whose last has none. -/
theorem witness_ProbesComplete :
    ProbeFinds user 0 true 3 (some true) ∧ ProbeFinds (paged 0) 0x80000200 true 3 (some (modeMay 15 3 true)) ∧
    ProbeFinds (probed 0x80000800 0) 0 false 0 (some false) ∧ ProbeFinds (probed 0x80000400 0) 0 false 0 (some false) ∧
    (∀ write, ProbeFinds (probed 0x80000000 0x1FE) 0x1FE write 3 (some (modeMay 4 3 write)) ∧
      ProbeFinds (probed 0x80000000 0x1FE) 0x201 write 3 (some (modeMay 4 3 write)) ∧
      ProbeFinds (probed 0x80000600 0) 0 write 3 none ∧
      ProbeFinds (probed 0x80000600 0xFFFFFFFF) 0xFFFFFFFF write 3 (some false) ∧
      ProbeFinds (probed 0x80000600 0xFFFFFFFF) 2 write 3 none) ∧
    [((0x80000000, 0x1FE) : Word × Word), (0x80000600, 0), (0x80000600, 0xFFFFFFFF)].all (fun (p0br, r0) =>
      runs (readOp 8 (.lit 3) true) (probing p0br r0).opened fun m s1 => runs (readOp 16 (.lit 4) true) s1 fun n s2 =>
      runs (addressOp .b true (.base (.regDef 0))) s2 fun a u => m == 3 && n == 4 && a == r0 && u == probed p0br r0) ∧
    runs (probe true 0x1FE false 3) (probed 0x80000000 0x1FE) (fun _ v => ends (probe true 0x201 false 3) v) ∧
    runs (probe true 0x201 true 3) (probed 0x80000000 0x201) (fun _ v => ends (probe true 0x204 true 3) v) ∧
    (paged 0).prv = 0 ∧ Memory.wf (paged 0).mem = true ∧ IprLegal (probing 0x80000600 0).ipr := by
  refine ⟨.off (by decide +kernel), .system 0xF8000041 (by decide +kernel) (by decide +kernel) (by decide +kernel)
    (held _ _ _ _ _ (by decide +kernel) (by decide +kernel)) (by decide +kernel),
    .noTable (by decide +kernel) (by decide +kernel) (by decide +kernel) (unbuffered _ (by decide +kernel) _) (by decide +kernel),
    .tableKept 0x80000042 (by decide +kernel) (by decide +kernel) (by decide +kernel) (unbuffered _ (by decide +kernel) _) (by decide +kernel)
    (held _ _ _ _ _ (by decide +kernel) (by decide +kernel)) (by decide +kernel),
    fun write => ⟨(finds_page _ _ rfl rfl write).1, (finds_page _ _ rfl rfl write).2, finds_invalid _ _ (.inl rfl) (.inl rfl) _ _,
      finds_outside _ _, finds_invalid _ _ (.inr rfl) (.inr rfl) _ _⟩, by decide +kernel, by decide +kernel, by decide +kernel,
    by decide +kernel, by decide +kernel, ⟨⟨?_, ?_⟩, ⟨?_, ?_⟩, ⟨?_, ?_⟩, ⟨?_, ?_⟩, ?_, ?_⟩⟩ <;> decide +kernel

/-- Floating data: 1.0, -2.0 in R1 and R2 (F) or R1/R2 and R4/R5 (D), the largest datum, the least, 0, the
reserved operand in R11, and IV, FU, DV set. -/
def w3 : State := machine 0x041F00E0
  [(1, 0x4080), (2, 0), (3, 0x3000), (4, 0xC100), (5, 0), (6, 0xFFFF7FFF), (7, 0xFFFFFFFF), (8, 0x0080), (9, 0), (11, 0x8000), (14, 0x10000)] []

/-- A computation ends in the reserved addressing mode fault. -/
def reservedMode {α : Type} (m : M α) (s : State) : Bool := match m s with
  | .error (.fault 0x1C []) _ => true
  | _ => false

/-- The reserved operand in each place among good data, the specifiers after it evaluated; and, after the reserved operand, a literal
where a destination stands. -/
theorem witness_reserved : [32, 64].all (fun w =>
    [(Spec.reg 11, Spec.reg 1), (.reg 1, .reg 11)].all (fun (a, b) => runs (rawFloat w a) w3.opened fun x s1 =>
      runs (rawModifyFloat w b) s1 (fun (_, y) _ => fReserved x || fReserved y) &&
      runs (rawFloat w b) s1 (fun y s2 => (fReserved x || fReserved y) && ends (writeFloat w (.reg 4)) s2) &&
      runs (readInt 8 false (.lit 0)) s1 (fun _ s2 => runs (rawFloat w b) s2 fun y s3 => (fReserved x || fReserved y) &&
        runs (locate .write .l false (.reg 10)) s3 fun _ s4 => ends (writeFloat w (.reg 4)) s4)) &&
    runs (rawFloat w (.reg 11)) w3.opened (fun x s1 => fReserved x && ends (writeFloat w (.reg 4)) s1 &&
      runs (rawFloat w (.reg 1)) s1 (fun _ s2 => ends (rawModifyFloat w (.reg 4)) s2 && reservedMode (rawModifyFloat w (.lit 0)) s2 &&
        reservedMode (writeFloat w (.lit 0)) s2) &&
      reservedMode (writeFloat w (.lit 0)) s1 && reservedMode (rawModifyFloat w (.lit 0)) s1 &&
      reservedMode (writeOp w (.lit 0) false) s1 && reservedMode (locate .write .l false (.lit 0)) s1 &&
      [8, 16].all (fun v => reservedMode (readInt v false (.indexBad 3 0x5F)) s1) && reservedMode (rawFloat w (.indexBad 3 0x5F)) s1 &&
      runs (readInt 16 false (.lit 32)) s1 (fun d s2 => 31 < d.toNat && reservedMode (addressOp .b false (.reg 1)) s2 &&
        ends (addressOp .b false (.base (.abs 0x3000))) s2))) := by decide +kernel

/-- ADDF3 R11, R1, #0: the reserved operand is read first, but the reserved addressing mode is the fault (60_exceptions.md R1231). -/
theorem test_specifier_before_reserved_operand :
    lands [0x41, 0x5B, 0x51, 0] (kernel [(1, 0x4080), (11, 0x8000), (14, 0x10000)] [(0x18, [0, 0x60, 0, 0]), (0x1C, [0, 0x50, 0, 0])])
      (fun t => t.pc == 0x5000) = true := by decide +kernel

/-- Pairs of operands whose sum or product is in range, overflows, and underflows. -/
def floatPairs : List (Spec × Spec) := [(.reg 1, .reg 4), (.reg 6, .reg 6), (.reg 8, .reg 8), (.lit 0x3F, .reg 4)]

/-- None of them is reserved. -/
theorem witness_not_reserved : [32, 64].all (fun w => floatPairs.all fun (a, b) => runs (rawFloat w a) w3.opened fun x s1 =>
    !fReserved x && runs (rawFloat w b) s1 (fun y _ => !fReserved y) &&
    runs (rawModifyFloat w (if b == .lit 0x3F then .reg 1 else b)) s1 fun (_, y) _ => !fReserved y) := by decide +kernel

/-- The events of the results that a function gives for the pairs. -/
def floatEvents (w : Nat) (f : FVal → FVal → FResult w) : List FEvent := floatPairs.filterMap fun (a, b) =>
  match (do let x ← rawFloat w a; let y ← rawFloat w b; pure (f (fVal x) (fVal y)).event : M FEvent) w3.opened with
  | .ok e _ => some e
  | .error _ _ => none

def metFloatBinary2 (w : Nat) (f : FVal → FVal → FResult w) : Bool := floatPairs.all fun (a, b) =>
  runs (rawFloat w a) w3.opened fun x s1 => runs (rawModifyFloat w b) s1 fun (l, y) u =>
    ends (storeFloat l (f (fVal x) (fVal y)).r) u

def metFloatBinary3 (w : Nat) (f : FVal → FVal → FResult w) : Bool := floatPairs.all fun (a, b) =>
  [Spec.reg 10, .base (.regDef 3)].all fun dst =>
  runs (rawFloat w a) w3.opened fun x s1 => runs (rawFloat w b) s1 fun y s2 => runs (writeFloat w dst) s2 fun l u =>
    ends (storeFloat l (f (fVal x) (fVal y)).r) u

def metFloatUnary (v w : Nat) (f : BitVec v → FResult w) : Bool := [Spec.reg 1, .reg 4, .reg 6, .base (.regDef 3)].all fun src =>
  [Spec.reg 10, .base (.regDef 3)].all fun dst =>
  runs (rawFloat v src) w3.opened fun x s1 => runs (writeFloat w dst) s1 fun l u => ends (storeFloat l (f x).r) u

/-- The events reached: none, overflow, underflow; and a zero divisor. -/
theorem witness_FloatArithmeticCompletes :
    metFloatBinary2 32 (fun a b => fStore 32 (b.add a)) ∧ metFloatBinary3 32 (fun a b => fStore 32 (b.add a)) ∧
    metFloatBinary2 64 (fun a b => fStore 64 (b.add a)) ∧ metFloatBinary3 64 (fun a b => fStore 64 (b.add a)) ∧
    metFloatBinary2 32 (fun a b => fStore 32 (b.sub a)) ∧ metFloatBinary3 32 (fun a b => fStore 32 (b.sub a)) ∧
    metFloatBinary2 64 (fun a b => fStore 64 (b.sub a)) ∧ metFloatBinary3 64 (fun a b => fStore 64 (b.sub a)) ∧
    metFloatBinary2 32 (fun a b => fStore 32 (b.mul a)) ∧ metFloatBinary3 32 (fun a b => fStore 32 (b.mul a)) ∧
    metFloatBinary2 64 (fun a b => fStore 64 (b.mul a)) ∧ metFloatBinary3 64 (fun a b => fStore 64 (b.mul a)) ∧
    metFloatBinary2 32 (fun a b => fQuotient 32 b a) ∧ metFloatBinary3 32 (fun a b => fQuotient 32 b a) ∧
    metFloatBinary2 64 (fun a b => fQuotient 64 b a) ∧ metFloatBinary3 64 (fun a b => fQuotient 64 b a) ∧
    floatEvents 32 (fun a b => fStore 32 (b.mul a)) = [.none, .overflow, .underflow, .none] ∧
    floatEvents 64 (fun a b => fStore 64 (b.mul a)) = [.none, .overflow, .underflow, .none] ∧
    (fQuotient 32 ⟨1, 0⟩ (fVal (w3.reg 9))).event = .divZero ∧ w3.pslBit pslFU = true := by decide +kernel

theorem witness_FloatMovesComplete :
    metFloatUnary 32 32 (⟨·, .none⟩) ∧ metFloatUnary 64 64 (⟨·, .none⟩) ∧
    metFloatUnary 32 32 (fun x => ⟨if (fVal x).m = 0 then 0 else x ^^^ 0x8000, .none⟩) ∧
    metFloatUnary 64 64 (fun x => ⟨if (fVal x).m = 0 then 0 else x ^^^ 0x8000, .none⟩) ∧
    [32, 64].all (fun w => floatPairs.all fun (a, b) => runs (rawFloat w a) w3.opened fun _ s1 => ends (rawFloat w b) s1) := by
  decide +kernel

def metFloatToInt (v w : Nat) (g : FVal → Int) : Bool := [Spec.reg 1, .reg 4, .reg 6].all fun src => places.all fun dst =>
  runs (rawFloat v src) w3.opened fun x s1 => runs (writeOp w dst false) s1 fun l u =>
    ends (storeOp l (wantExact w (g (fVal x))).r false) u && (src != .reg 6 || (wantExact w (g (fVal x))).trap true == some 1)

def metIntToFloat (v w : Nat) : Bool := [Spec.lit 63, .reg 6, .base (.regDef 3)].all fun src =>
  [Spec.reg 10, .base (.regDef 3)].all fun dst =>
  runs (readOp v src false) w3.opened fun a s1 => runs (writeFloat w dst) s1 fun l u => ends (storeFloat l (fStore w ⟨a.toInt, 0⟩).r) u

theorem witness_FloatConversionsComplete :
    metFloatToInt 32 8 FVal.trunc ∧ metFloatToInt 32 16 FVal.trunc ∧ metFloatToInt 32 32 FVal.trunc ∧
    metFloatToInt 64 8 FVal.trunc ∧ metFloatToInt 64 16 FVal.trunc ∧ metFloatToInt 64 32 FVal.trunc ∧
    metFloatToInt 32 32 FVal.round ∧ metFloatToInt 64 32 FVal.round ∧
    metIntToFloat 8 32 ∧ metIntToFloat 16 32 ∧ metIntToFloat 32 32 ∧ metIntToFloat 8 64 ∧ metIntToFloat 16 64 ∧
    metIntToFloat 32 64 ∧
    metFloatUnary 32 64 (fun x => ⟨if (fVal x).m = 0 then 0 else x.setWidth 64, .none⟩) ∧
    metFloatUnary 64 32 (fun x => fStore 32 (fVal x)) := by decide +kernel

/-- EMOD of the operands a and b: whether the integer fits, and the event of the fraction. -/
def metExtendsModulus (w : Nat) (a b : Spec) (fits : Bool) (event : FEvent) : Bool :=
  [(Spec.reg 10, Spec.reg 0), (.base (.regDef 3), .base (.dispB 3 4))].all fun (int, fract) =>
  runs (rawFloat w a) w3.opened fun x s1 => runs (readInt 8 false (.lit 0)) s1 fun ext s2 =>
  runs (rawFloat w b) s2 fun y s3 => runs (locate .write .l false int) s3 fun li s4 =>
  runs (writeFloat w fract) s4 fun lf s5 => runs (checkStore false 32 li) s5 fun _ s6 =>
  runs (checkStore false w lf) s6 fun _ u =>
    let p := (fExtend x ext).mul (fVal y)
    let r : Word := BitVec.ofInt 32 p.trunc
    let z := fStore w (p.sub ⟨p.trunc, 0⟩)
    runs (storeLoc false false li r) u (fun _ v => ends (storeFloat lf z.r) v) && (r.toInt == p.trunc) == fits && z.event == event

/-- Coefficients 1, 2, 3 (F) at 3000 and 1, 2, 3 (D) at 3100. -/
def w4 : State := machine 0x041F0040 [(1, 0x4100), (2, 0), (14, 0x10000)]
  [(0x3000, [0x80, 0x40, 0, 0, 0, 0x41, 0, 0, 0x40, 0x41, 0, 0]),
    (0x3100, [0x80, 0x40, 0, 0, 0, 0, 0, 0, 0, 0x41, 0, 0, 0, 0, 0, 0, 0x40, 0x41]), (0x3200, [0x80, 0]), (0x3300, [0, 0x80]),
    (0x3400, [0xFF, 0x7F, 0xFF, 0xFF, 0xFF, 0xFF, 0xFF, 0xFF])]

/-- A polynomial at 2.0: whether a step of it underflows. -/
def metPolynomials (w : Nat) (arg : Spec) (degree : BitVec 6) (tbl : Word) (under : Bool) : Bool :=
  runs (rawFloat w arg) w4.opened fun x s1 => runs (readInt 16 false (.lit degree)) s1 fun d s2 =>
  runs (addressOp .b false (.base (.abs tbl))) s2 fun a s3 => decide (d.toNat ≤ 31) &&
  runs (readTable w (d.toNat + 1) a) s3 fun cs _ =>
    match cs with
    | [] => false
    | c :: cs => (c :: cs).all (fun k => !fReserved k) && (horner (fVal x) c false cs).map (·.2) == some under

/-- A polynomial of some degree whose coefficient number k is reserved, or overflows: k coefficients are used before it. -/
def metPolynomialStops (w : Nat) (arg : Spec) (tbl : Word) (k : Nat) (reserved : Bool) : Bool :=
  runs (rawFloat w arg) w4.opened fun x s1 => !fReserved x && runs (readInt 16 false (.lit 3)) s1 fun d s2 =>
  runs (addressOp .b false (.base (.abs tbl))) s2 fun a s3 => decide (d.toNat ≤ 31 ∧ k ≤ d.toNat) &&
  runs (readTable w k a) s3 fun cs u => cs.all (fun c => !fReserved c) &&
  runs (memReadN (a + BitVec.ofNat 32 (w / 8 * k)) (w / 8)) u fun c _ => fReserved (BitVec.ofNat w c) == reserved &&
    match cs with
    | [] => reserved
    | c0 :: rest => (horner (fVal x) c0 false rest).isSome &&
        (reserved || horner (fVal x) c0 false (rest ++ [BitVec.ofNat w c]) == none)

theorem witness_PolynomialsStop :
    runs (rawFloat 32 (.reg 1)) w4.opened (fun _ s1 => runs (readInt 16 false (.lit 32)) s1 fun d s2 =>
      decide (31 < d.toNat) && ends (addressOp .b false (.base (.abs 0x3000))) s2) ∧
    metPolynomialStops 32 (.reg 1) 0x3300 0 true ∧ metPolynomialStops 32 (.reg 1) 0x32FC 1 true ∧
    metPolynomialStops 64 (.reg 1) 0x3300 0 true ∧ metPolynomialStops 64 (.reg 1) 0x32F8 1 true ∧
    metPolynomialStops 32 (.lit 0x3F) 0x3400 1 false ∧ metPolynomialStops 64 (.lit 0x3F) 0x3400 1 false := by decide +kernel

def metFloatAddCompares (w : Nat) : Bool := floatPairs.all fun (add, idx) =>
  runs (rawFloat w (.reg 1)) w3.opened fun _ s1 => runs (rawFloat w add) s1 fun a s2 =>
  runs (rawModifyFloat w idx) s2 fun (l, i) s3 => ends (storeFloat l (fStore w ((fVal i).add (fVal a))).r) (s3.setPc (s3.pc + 2))

/-- EMOD with an integer that fits and one that does not, and with a fraction that underflows; a polynomial with a step that
underflows: the least datum times a half, and 0 added. -/
theorem witness_FloatExtendedComplete :
    [32, 64].all (fun w => metExtendsModulus w (.reg 1) (.reg 4) true .none && metExtendsModulus w (.reg 6) (.reg 4) false .none &&
      metExtendsModulus w (.reg 8) (.reg 8) true .underflow) ∧
    metPolynomials 32 (.reg 1) 2 0x3000 false ∧ metPolynomials 64 (.reg 1) 2 0x3100 false ∧
    metPolynomials 32 (.reg 1) 0 0x3000 false ∧ metPolynomials 32 (.lit 0) 1 0x3200 true ∧
    metPolynomials 64 (.lit 0) 1 0x3200 true ∧ metFloatAddCompares 32 ∧ metFloatAddCompares 64 := by decide +kernel

/-- A zero divisor; 6 over 2; 1 over 3; values at which overflow, underflow and neither are met. -/
theorem witness_FloatResultsRound :
    (⟨0, 5⟩ : FVal).m = 0 ∧ ((⟨3, 0⟩ : FVal).mul ⟨2, 0⟩).eq ⟨6, 0⟩ = true ∧ (fQuotient 64 ⟨1, 0⟩ ⟨3, 0⟩).event = .none ∧
    (fStore 32 (roundsTo 24 127)).event = .overflow ∧ (fStore 64 (roundsTo 56 127)).event = .overflow ∧
    (fStore 32 ⟨(2 ^ 24 - 1 : Nat), 103⟩).event = .none ∧ (fStore 32 (roundsTo 24 (-128))).event = .none ∧
    (fStore 32 ⟨(2 ^ 25 - 2 : Nat), -153⟩).event = .underflow ∧ (fStore 64 ⟨1, -200⟩).event = .underflow ∧
    (fStore 32 ⟨2 ^ 24 + 1, 0⟩).r = (fStore 32 ⟨2 ^ 24 + 2, 0⟩).r ∧
    (fQuotient 32 ⟨0, 0⟩ ⟨3, 0⟩).event = .none ∧ (fQuotient 32 ⟨1, 129⟩ ⟨3, 0⟩).event = .overflow ∧
    (fQuotient 32 ⟨1, 128⟩ ⟨-3, 0⟩).event = .none ∧ (fQuotient 64 ⟨-1, -126⟩ ⟨3, 0⟩).event = .none ∧
    (fQuotient 64 ⟨1, -127⟩ ⟨3, 0⟩).event = .underflow := by decide +kernel

/-- The clauses of RoundsQuotient, checked. -/
def checkQuotient (w : Nat) (a b : FVal) : Bool :=
  let x := fQuotient w a b
  let d := fVal x.r
  let below := a.mag.lt (d.mul b).mag
  let gap : FVal := if below && d.m.natAbs == 2 ^ (w - 9) then ⟨1, d.e - 2⟩ else ⟨1, d.e - 1⟩
  let off := (a.sub (d.mul b)).mag
  if a.m = 0 then x == ⟨0, .none⟩
  else if !a.mag.lt ((roundsTo (w - 8) 127).mul b.mag) then x == ⟨BitVec.ofNat w 0x8000, .overflow⟩
  else if a.mag.lt ((roundsTo (w - 8) (-128)).mul b.mag) then x == ⟨0, .underflow⟩
  else x.event == .none && !fReserved x.r && decide (d.m ≠ 0) && decide (d.m < 0 ↔ a.m * b.m < 0) &&
    !(gap.mul b.mag).lt off && (!(gap.mul b.mag).eq off || below)

/-- Quotients that are no dyadic fraction, at both ends of the range, and ties. -/
theorem test_quotients : [32, 64].all (fun w => [(1, -128), (1, -127), (1, -126), (-1, 0), (5, 126), (1, 129), (1, 130), (0, 7),
    (3 * (roundsTo (w - 8) 0).m, 127 - ((w - 7 : Nat) : Int)), (3 * (roundsTo (w - 8) 0).m - 1, 127 - ((w - 7 : Nat) : Int)),
    (3 * (roundsTo (w - 8) 0).m, -128 - ((w - 7 : Nat) : Int)), (3 * (roundsTo (w - 8) 0).m - 1, -128 - ((w - 7 : Nat) : Int)),
    (3 * (2 ^ (w - 8) + 1), 0)].all fun ((m, e) : Int × Int) =>
      checkQuotient w ⟨m, e⟩ ⟨3, 0⟩ && checkQuotient w ⟨m, e⟩ ⟨-5, 1⟩) := by decide +kernel

theorem witness_FloatValues :
    0 < (0x00000080 : Word).toNat / 128 % 256 ∧ 0 < (0xFFFFFFFF : Word).toNat / 128 % 256 ∧
    (0xFFFF007F : Word).toNat / 128 % 256 = 0 ∧ (0x00008000 : Word).toNat / 128 % 256 = 0 ∧
    0 < (0xFFFFFFFFFFFFFFFF : BitVec 64).toNat / 128 % 256 ∧ 0 < (0x0000000000000080 : BitVec 64).toNat / 128 % 256 ∧
    (0xFFFFFFFFFFFF007F : BitVec 64).toNat / 128 % 256 = 0 ∧ (0x0000000000008000 : BitVec 64).toNat / 128 % 256 = 0 := by
  decide +kernel

/-- A string ABC,D at 2000, BC at 2010, a table at 4000 that gives each of their bytes in lower case but the comma itself, a
packed -123 at 2020 and 45 at 2030. -/
def w5 : State := machine 0x041F0000 [(14, 0x10000)]
  [(0x2000, [0x41, 0x42, 0x43, 0x2C, 0x44]), (0x2010, [0x42, 0x43]), (0x2020, [0x12, 0x3D]), (0x2030, [0x04, 0x5C]),
    (0x402C, [0x2C]), (0x4041, [0x61, 0x62, 0x63, 0x64])]

/-- The operands of an absolute address. -/
abbrev at' (a : Word) : Spec := .base (.abs a)

/-- A list of operands: lengths and addresses, each of which runs, then a check. -/
def lens (n : BitVec 6) (a : Word) (s : State) (k : BitVec 16 → Word → State → Bool) : Bool :=
  runs (readLen (.lit n)) s fun n s => runs (stringAddr (at' a)) s fun a s => k n a s

theorem witness_StringMovesComplete :
    lens 5 0x2000 w5.opened (fun n a s => runs (stringAddr (at' 0x2003)) s fun d s => runs (readBytes n.toNat a) s fun bs u =>
      ends (putString d bs) u) ∧
    [(5, 3), (3, 5), (0, 0)].all (fun (n, k) => lens n 0x2000 w5.opened fun n a s => runs (readInt 8 false (.lit 0x2E)) s fun f s =>
      lens k 0x3000 s fun k d s => runs (readBytes (min n.toNat k.toNat) a) s fun bs u =>
        ends (putString d (bs ++ List.replicate (k.toNat - min n.toNat k.toNat) f)) u) ∧
    [(5, 3), (3, 5)].all (fun (n, k) => lens n 0x2000 w5.opened fun n a s => runs (readInt 8 false (.lit 0x2C)) s fun e s =>
      runs (stringAddr (at' 0x4000)) s fun tb s => lens k 0x3000 s fun k d s =>
        !overlap d k.toNat tb 256 && !overlap d k.toNat a n.toNat &&
        runs (translateBytes tb (min n.toNat k.toNat) a) s (fun bs u =>
          ends (putString d (bs ++ List.replicate (k.toNat - min n.toNat k.toNat) e)) u) &&
        runs (translateUntil tb e (min n.toNat k.toNat) a) s fun bs u => ends (putString d bs) u) ∧
    runs (translateUntil 0x4000 0x2C 5 0x2000) w5 (fun bs _ => bs.length == 3) := by decide +kernel

theorem witness_StringSearchesComplete :
    lens 5 0x2000 w5.opened (fun n a s => runs (stringAddr (at' 0x2010)) s fun b s =>
      ends (compareFrom 0 n.toNat a n.toNat b n.toNat 0) s) ∧
    lens 5 0x2000 w5.opened (fun n a s => runs (readInt 8 false (.lit 0x20)) s fun f s => lens 2 0x2010 s fun k b s =>
      ends (compareFrom f n.toNat a k.toNat b (max n.toNat k.toNat) 0) s) ∧
    [true, false].all (fun want => lens 5 0x2000 w5.opened fun n a s => runs (stringAddr (at' 0x4000)) s fun tb s =>
      runs (readInt 8 false (.lit 1)) s fun m s =>
        ends (passOver (fun b => (fun e => (e &&& m != 0) == want) <$> memReadByte (tb + num b.toNat)) n.toNat a) s) ∧
    [true, false].all (fun want => runs (readInt 8 false (.lit 0x2C)) w5.opened fun c s => lens 5 0x2000 s fun n a s =>
      ends (passOver (fun b => pure ((b == c) == want)) n.toNat a) s) ∧
    [0x2010, 0x2011].all (fun o => lens 2 o w5.opened fun n o s => lens 5 0x2000 s fun k a s =>
      runs (matchFrom n.toNat o a (k.toNat + 1 - n.toNat) 0) s fun r _ => r.isSome == (o == 0x2010)) ∧
    runs (stringAddr (at' 0x4000)) w5.opened (fun tb s => runs (readInt 32 false (.lit 0)) s fun c s => lens 5 0x2000 s fun n a s =>
      ends (crcBytes tb n.toNat a c) s) := by decide +kernel

/-- The string at 2000 and its table, the place of 65536 bytes at 20000, and the two strings. -/
theorem witness_PlainStrings :
    w5.ipr.mapen = false ∧ w5.errs.memory = [] ∧ (∀ i (h : i < [0x41, 0x42, 0x43, 0x2C, 0x44].length),
      w5.plainByte (0x2000 + num i) = some ([0x41, 0x42, 0x43, 0x2C, 0x44] : List Byte)[i]) ∧
    (∀ i, i < 3 → (w5.plainByte (0x3000 + num i)).isSome = true) ∧ Memory.wf w5.mem = true ∧
    w5.plainByte (0x4000 + num 0x2C) = some 0x2C ∧ w5.plainByte (0x4000 + num 0x44) = some 0x64 ∧
    (∀ i, i < 16 → w5.plainLong (0x5000 + num (4 * i)) = some 0) ∧
    (∀ i (h : i < [0x42, 0x43].length), w5.plainByte (0x2010 + num i) = some ([0x42, 0x43] : List Byte)[i]) ∧
    (∀ i, i < 5 → ([0x41, 0x42, 0x43, 0x2C, 0x44] : List Byte).getD i 0 = [0x41, 0x42, 0x43, 0x2C, 0x44].getD i 0) ∧
    ([0x41, 0x42, 0x43, 0x2C, 0x44] : List Byte).getD 0 0 ≠ [0x42, 0x43].getD 0 0 := by decide +kernel

/-- A length of 32 before one of 31, and the other way round. -/
def longLens (s : State) : Bool := [(32, 31), (31, 32)].all fun (n, k) => lens n 0x2020 s fun n _ s => lens k 0x3000 s fun k _ _ =>
  decide (31 < n.toNat ∨ 31 < k.toNat)

/-- Packed sources: -123 of 3 digits at 2020, 45 of 3 digits at 2030. -/
theorem witness_PackedMovesComplete :
    [0x3000, 0x2020].all (fun d => lens 3 0x2020 w5.opened fun n a s => runs (stringAddr (at' d)) s fun d s =>
      runs (packedValue n a) s fun x u => x == some (-123) && (d == a || !overlap d (n.toNat / 2 + 1) a (n.toNat / 2 + 1)) &&
        ends (putString d (wantPacked n.toNat (-123))) u) ∧
    lens 3 0x2020 w5.opened (fun n a s => runs (stringAddr (at' 0x2030)) s fun b s => runs (packedValue n a) s fun x s =>
      x == some (-123) && runs (packedValue n b) s fun y _ => y == some 45) ∧
    lens 3 0x2020 w5.opened (fun n a s => lens 2 0x2030 s fun k b s => runs (packedValue n a) s fun x s =>
      x == some (-123) && runs (packedValue k b) s fun y _ => y == some 45) ∧
    longLens w5.opened = true := by decide +kernel

/-- With a destination of 3 digits, which overflows for a product, and DV set or clear; then a zero divisor. -/
theorem witness_PackedArithmeticCompletes :
    runs (packedOps4 (.lit 3) (at' 0x2020) (.lit 3) (at' 0x2030)) w5.opened (fun o s =>
      decide (o.n1.toNat ≤ 31 ∧ o.n2.toNat ≤ 31) && runs (packedValue o.n1 o.a1) s fun x s => runs (packedValue o.n2 o.a2) s fun y u =>
        x == some (-123) && y == some 45 && !overlap o.a2 (o.n2.toNat / 2 + 1) o.a1 (o.n1.toNat / 2 + 1) &&
        [-78, 168].all fun r => ends (putString o.a2 (wantPacked o.n2.toNat r)) u) ∧
    runs (packedOps6 (.lit 3) (at' 0x2020) (.lit 3) (at' 0x2030) (.lit 3) (at' 0x3000)) w5.opened (fun o s =>
      decide (o.n1.toNat ≤ 31 ∧ o.n2.toNat ≤ 31 ∧ o.nd.toNat ≤ 31) &&
      runs (packedValue o.n1 o.a1) s fun x s => runs (packedValue o.n2 o.a2) s fun y u =>
        x == some (-123) && y == some 45 && !overlap o.d (o.nd.toNat / 2 + 1) o.a1 (o.n1.toNat / 2 + 1) &&
        !overlap o.d (o.nd.toNat / 2 + 1) o.a2 (o.n2.toNat / 2 + 1) &&
        [-78, 168, -5535, 0].all fun r => ends (putString o.d (wantPacked o.nd.toNat r)) u) ∧
    (decimalCC 3 (-5535)).v = true ∧ (decimalCC 3 168).v = false ∧ w3.pslBit pslDV = true ∧ w5.pslBit pslDV = false ∧
    runs (packedOps6 (.lit 0) (at' 0x2020) (.lit 3) (at' 0x2030) (.lit 3) (at' 0x3000)) (storeBytes w5 0x2020 [0x0C]).opened (fun o s =>
      runs (packedValue o.n1 o.a1) s fun x s => x == some 0 && ends (packedValue o.n2 o.a2) s &&
        ends (putString o.d [0, 0]) s) ∧
    [((32 : BitVec 6), (31 : BitVec 6), (3 : BitVec 6)), (3, 32, 0), (0, 0, 32)].all (fun (n1, n2, nd) =>
      runs (packedOps6 (.lit n1) (at' 0x2020) (.lit n2) (at' 0x2030) (.lit nd) (at' 0x3000)) w5.opened fun o _ =>
        decide (31 < o.n1.toNat ∨ 31 < o.n2.toNat ∨ 31 < o.nd.toNat)) ∧
    [((32 : BitVec 6), (31 : BitVec 6)), (3, 32)].all (fun (n1, n2) =>
      runs (packedOps4 (.lit n1) (at' 0x2020) (.lit n2) (at' 0x2030)) w5.opened fun o _ =>
        decide (31 < o.n1.toNat ∨ 31 < o.n2.toNat)) := by decide +kernel

/-- The source of a conversion from a numeric string: trailing at 2100 through a table at 4100, separate at 2110. -/
def w6 : State := machine 0x041F0000 [(14, 0x10000)]
  [(0x2020, [0x12, 0x3D]), (0x2100, [0x31, 0x32, 0x73]), (0x2110, [0x2D, 0x31, 0x32, 0x33]), (0x2120, [0x20, 0x31, 0x32, 0x33]),
    (0x4173, [0x3D]), (0x423D, [0x73])]

theorem witness_DecimalConversionsComplete :
    runs (readInt 32 false (.base (.imm 0xFFFFFF85))) w6.opened (fun x s => lens 3 0x3000 s fun n d u => decide (n.toNat ≤ 31) &&
      ends (putString d (wantPacked n.toNat x.toInt)) u) ∧
    [Spec.reg 10, at' 0x3000].all (fun dst => lens 3 0x2020 w6.opened fun n a s => runs (locate .write .l false dst) s fun l s =>
      runs (packedValue n a) s fun x s => x == some (-123) && runs (checkStore false 32 l) s fun _ u =>
        ends (storeLoc false false l (wantExact 32 (-123)).r) (u.withRegs [(0, 0), (1, a), (2, 0), (3, 0)])) ∧
    (wantExact 32 (2 ^ 31)).cc.v = true ∧
    [(2, -12300), (0xFF, -12)].all (fun (cnt, y) => runs (readInt 8 false (.base (.imm cnt))) w6.opened fun k s =>
      lens 3 0x2020 s fun n a s => runs (readInt 8 false (.lit 5)) s fun rd s => lens 5 0x3000 s fun m d s =>
      runs (packedValue n a) s fun x u => x == some (-123) && !overlap d (m.toNat / 2 + 1) a (n.toNat / 2 + 1) &&
        (if 0 ≤ k.toInt then y == -123 * 10 ^ k.toInt.toNat
          else k.toInt == -1 && y == Int.sign (-123) * (((123 + rd.toNat % 16 * 1) / 10 : Nat) : Int)) &&
        ends (putString d (wantPacked m.toNat y)) u) ∧
    lens 3 0x2020 w6.opened (fun n a s => runs (stringAddr (at' 0x4200)) s fun tb s => lens 3 0x3000 s fun k d s =>
      runs (packedValue n a) s fun x s => x == some (-123) && !overlap d k.toNat a (n.toNat / 2 + 1) &&
      runs (trailingBytes tb k.toNat 123 (decimalMinus k.toNat (-123))) s fun bs u => ends (putString d bs) u) ∧
    lens 3 0x2100 w6.opened (fun n a s => runs (stringAddr (at' 0x4100)) s fun tb s => lens 3 0x3000 s fun k d s =>
      runs (trailingValue tb n.toNat a) s fun x u => x == -123 && !overlap d (k.toNat / 2 + 1) a n.toNat &&
        ends (putString d (wantPacked k.toNat x)) u) ∧
    lens 3 0x2020 w6.opened (fun n a s => lens 3 0x3000 s fun k d s => runs (packedValue n a) s fun x u => x == some (-123) &&
      !overlap d (k.toNat + 1) a (n.toNat / 2 + 1) &&
      ends (putString d (separateBytes k.toNat 123 (decimalMinus k.toNat (-123)))) u) ∧
    [((0x2110 : Word), true), (0x2120, false)].all (fun (a, neg) => lens 3 a w6.opened fun n a s => lens 3 0x3000 s fun k d s =>
      decide (123 < 10 ^ n.toNat) && runs (readBytes (n.toNat + 1) a) s fun bs u =>
        bs == (if neg then separateBytes n.toNat 123 true else 0x20 :: (separateBytes n.toNat 123 false).tail) &&
        !overlap d (k.toNat / 2 + 1) a (n.toNat + 1) && ends (putString d (wantPacked k.toNat (if neg then -123 else 123))) u) ∧
    longLens w6.opened = true ∧
    runs (readInt 32 false (.lit 7)) w6.opened (fun _ s => lens 32 0x3000 s fun n _ _ => decide (31 < n.toNat)) ∧
    lens 32 0x2020 w6.opened (fun n _ s => ends (locate .write .l false (.reg 10)) s && decide (31 < n.toNat)) ∧
    [((32 : BitVec 6), (31 : BitVec 6)), (3, 32)].all (fun (n, k) =>
      runs (readInt 8 false (.lit 2)) w6.opened (fun _ s => lens n 0x2020 s fun n _ s => runs (readInt 8 false (.lit 5)) s fun _ s =>
        lens k 0x3000 s fun k _ _ => decide (31 < n.toNat ∨ 31 < k.toNat)) &&
      lens n 0x2100 w6.opened fun n _ s => runs (stringAddr (at' 0x4100)) s fun _ s => lens k 0x3000 s fun k _ _ =>
        decide (31 < n.toNat ∨ 31 < k.toNat)) ∧
    lens 3 0x2110 w6.opened (fun _ a s => runs (stringAddr (at' 0x4100)) s fun tb s => lens 3 0x3000 s fun _ _ u =>
      match trailingValue tb 3 a u with
      | .error (.fault 0x18 []) _ => true
      | _ => false) ∧
    [((0x2111 : Word), (2 : BitVec 6)), (0x2110, 4)].all (fun (a, n) => lens n a w6.opened fun n a s => lens 3 0x3000 s fun _ _ u =>
      runs (readBytes (n.toNat + 1) a) u fun bs _ => match bs with
        | b :: bs => decide (b ∉ [0x2B, 0x20, 0x2D]) || bs.any fun c => decide (c.toNat < 0x30 ∨ 0x39 < c.toNat)
        | [] => false) := by decide +kernel

/-- Packed strings valid and not, of an odd and an even number of digits; a trailing string valid, with a leading byte that is no
digit, and with a table byte that is no digit with sign; bytes written. -/
theorem witness_PackedFormat :
    123 < 10 ^ 3 ∧ unpack 3 [0x12, 0x3B] = some ⟨[1, 2, 3], true⟩ ∧ unpack 2 [0x02, 0x3F] = some ⟨[2, 3], false⟩ ∧
    [((0x2020 : Word), (3 : BitVec 16), [(0x12 : Byte), 0x3D]), (0x2030, 2, [0x04, 0x5C]), (0x2000, 3, [0x41, 0x42])].all
      (fun (a, n, bs) => runs (readBytes (n.toNat / 2 + 1) a) w5 fun xs _ => xs == bs) ∧
    nibbleAt [0x12, 0x3D] 3 = 13 ∧ nibbleAt [0x04, 0x5C] 0 = 0 ∧ nibbleAt [0x41, 0x42] 3 = 2 ∧
    runs (readBytes 3 0x2100) w6 (fun bs s => bs == [0x31, 0x32, 0x73] && runs (memReadByte (0x4100 + 0x73)) s (fun b _ => b == 0x3D) &&
      runs (memReadByte (0x5000 + 0x73)) s fun b _ => b == 0) ∧
    runs (readBytes 2 0x2020) w6 (fun bs _ => bs == [0x12, 0x3D]) ∧
    runs (memReadByte (0x4200 + num (16 * (123 % 10) + 13))) w6 (fun b _ => b == 0x73) := by decide +kernel

/-- The edit of -123 under the pattern at 2200. -/
def edit0 (code : List Byte) (k : EStateM.Result Trap State Edit → Bool) : Bool :=
  lens 3 0x2020 (storeBytes w5 0x2200 code).opened fun n a s => runs (stringAddr (at' 0x2200)) s fun p s =>
    runs (stringAddr (at' 0x3000)) s fun d s => decide (n.toNat ≤ 31) && runs (readPacked n a) s fun x s =>
      x == some ⟨[1, 2, 3], true⟩ &&
      let e0 : Edit := ⟨[1, 2, 3], 0x20, 0x2D, true, true, false, false, p, d, []⟩
      k (Edit.run (2 ^ 32) e0 s)

/-- The value 12 3D of 3 digits at 2020, put at 3000: EO$MOVE 3 and EO$END; EO$MOVE 2, which leaves a digit; EO$MOVE 4; the code
05; EO$LOAD_FILL, with its byte, before EO$MOVE 3. -/
theorem witness_EditpcCompletes :
    lens 32 0x2020 w5.opened (fun n _ s => runs (stringAddr (at' 0x2200)) s fun _ s => ends (stringAddr (at' 0x3000)) s &&
      decide (31 < n.toNat)) ∧
    edit0 [0x93, 0] (fun r => match r with
      | .ok e u => e.digits == [] && runs (checkOut (e.bytes 0x3000)) u (fun _ v => ends (writeOut (e.bytes 0x3000)) v) &&
          e.out.all fun y => !overlap y.1 1 0x2020 2 && !overlap y.1 1 0x2200 ((e.pp - 0x2200).toNat + 1)
      | _ => false) ∧
    edit0 [0x92, 0] (fun r => match r with
      | .ok e _ => e.digits != []
      | _ => false) ∧
    [[(0x94 : Byte), 0], [5]].all (fun code => edit0 code fun r => match r with
      | .error (.fault 0x18 []) _ => true
      | _ => false) ∧
    edit0 [0x40, 0x2A, 0x93, 0] (fun r => match r with
      | .ok e _ => e.fill == 0x2A
      | _ => false) ∧
    [(0x93 : Byte), 0x94, 0x05, 0x48, 0x80, 0x90, 0xA0, 0xB0, 0xFF, 0x40, 0].all (fun b =>
      runs (memReadByte 0x2200) (storeBytes w5 0x2200 [b]) fun c _ => c == b) := by decide +kernel

/-- EO$MOVE 3, EO$BLANK_ZERO 5 of the number 0 (R704): two bytes below dstaddr and the three put there, each written once, the
lowest address first (R670). -/
theorem test_edit_bytes :
    (({ Edit.start ⟨[0, 0, 0], false⟩ 0x2200 0x3000 with fill := 0x2A, sig := true }.putTimes 0x30 3).blank 5).bytes 0x3000 =
      [(0x2FFE, 0x2A), (0x2FFF, 0x2A), (0x3000, 0x2A), (0x3001, 0x2A), (0x3002, 0x2A)] := by decide +kernel

theorem witness_DecodeEncode : (Instr.movl (.base (.imm 0x12345678)) (.index 3 (.autoInc 2))).WellFormed = true := by decide

/-- A list that is an instruction, and one that ends inside one. -/
theorem witness_EncodeDecode :
    reads [0xD0, 0x51, 0x52] = some (.movl (.reg 1) (.reg 2)) ∧
    (match decode [0xD0, 0x51] with | .error .truncated => true | _ => false) = true := by decide +kernel

/-- Single-bit errors in the quadword at 2000, double-bit errors in the one at 3000. -/
def inError : State := (w0.addError 0x2000 false).addError 0x3000 true

/-- 64_memory_controller.md R868, R880: a longword read over a single-bit error: the right data, the error gone, an interrupt
requested at level 1B; and over a double-bit error: machine check, through vector 04. -/
theorem test_memory_errors :
    runs (readOp 32 (.base (.regDef 2))) inError.opened (fun a t => a == 0x78563C12 && t.errs.memory.map (·.quad) == [0x600] &&
      t.errs.requests == 8) ∧
    (match exec (.movl (.base (.regDef 3)) (.reg 0)) (scb { inError with cfg := { inError.cfg with mchkLongs := 0 } }) with
      | .next t => t.pc == 0x5000 && t.errs.memory.length == 2 && t.errs.requests == 0 && stack t 0 0 && stack t 4 0x1000
      | _ => false) = true := by decide +kernel

/-- R867: a byte written over a double-bit error is lost; over a single-bit error it is stored, and the error is gone. -/
theorem test_writes_over_errors :
    runs (memWriteByte 0x3000 0x55) inError (fun _ t => t.memByte 0x3000 == some 0 && t.errs.memory.length == 2) ∧
    runs (memWriteByte 0x2001 0x55) inError (fun _ t => t.memByte 0x2001 == some 0x55 && t.errs.memory.length == 1) := by
  decide +kernel

/-- 20_memory.md R180, R230: a system page table in the map registers of a UNIBUS adapter is read for a reference that may be made in
I/O space; for another it is refused; where nothing responds, machine check. -/
theorem test_pte_in_io_space :
    let s := (withUnibus.onUba 0 fun u => { u with map := [(0, 0xA0000041)] })
    let on (sbr : BitVec 32) : State := { s with ipr := { s.ipr with mapen := true, sbr := sbr, slr := 4 } }
    runs (translate true 0x80000004 false 0) (on 0x20006800) (fun pa _ => pa == 0x8204) ∧
    (match translate false 0x80000004 false 0 (on 0x20006800), translate false 0x80000004 false 0 (on 0x3FFFF000) with
      | .error (.refuse .ioSpaceReference) _, .error (.machineCheck _) _ => true
      | _, _ => false) = true ∧
    runs (translate true 0x80000004 true 0) (on 0x20006800) (fun pa t => pa == 0x8204 &&
      t.bus.ubas.map (fun u => (sparseRead u.map 0).getLsbD 26) == [true]) := by decide +kernel

/-- 70_reset_and_hazards.md R1282, 20_memory.md R229: an agent's store ahead of PC is seen by a fetch, but for a byte that the eight of
the instruction buffer may hold; one of the CPU's may be missed at any distance. -/
theorem test_old_instruction_bytes :
    let s := storeBytes (kernel [] []) 0x1000 [1, 2, 3, 4, 5, 6, 7, 8, 9]
    let old (va : Word) (t : State) : List Byte := staleBytes va va.toNat t.stale
    old 0x1007 (s.sync.setMemByte 0x1007 0x55) = [8] ∧ old 0x1008 (s.sync.setMemByte 0x1008 0x55) = [] ∧
    runs (memWriteByte 0x1008 0x55) s.sync (fun _ t => old 0x1008 t == [9]) := by decide +kernel

/-- 65_uba.md R934, R936, D33: a data path that holds longword-aligned data is refused to a transfer by quadwords. -/
theorem test_data_path_modes :
    let s := withUnibus.onUba 0 fun u => { u with
      map := [(0, 0x80200041)], dpr := u.dpr.set 1 { u.dpr[1] with bne := true, long := true } }
    ([false, true].all fun write =>
      match step { s with agenda := [.unibus 0 (if write then .dato 0 5 else .dati 0)] } with
      | .refused .deviceDiscipline => true
      | _ => false) = true := by decide +kernel

/-- 65_uba.md R936, R948: longword-aligned mode with byte offset is refused in memory; at the SBI I/O address of the adapter's own
CNFGR byte offset is ignored, and the low word comes. -/
theorem test_byte_offset_io :
    let s (mr : Word) : State := { withUnibus.onUba 0 (fun u => { u with map := [(0, mr)] }) with agenda := [.unibus 0 (.dati 0)] }
    (match step (s 0x86200030), step (s 0x86300030) with
      | .refused .deviceDiscipline, .next t => t.outputs.head? == some (.dmaData 0 0x28)
      | _, _ => false) = true := by decide +kernel

/-- 10_state.md R121, 65_uba.md R912, R913: a BISB2 of a device's register leaves the flip-flop clear and its write to come, which
keeps the UNIBUS; a BISW2 whose second byte lies where nothing responds machine-checks and leaves the flip-flop clear. -/
theorem test_cpu_datip :
    let after (i : Instr) (p : UbaState → Bool) : Bool :=
      match exec i (withUnibus.setPc 0x1000) with
      | .next t => t.bus.ubas.all p
      | _ => false
    after (.bisb2 (.lit 1) (.base (.abs 0x2013F000))) (fun u => u.datip.isNone && u.posted.length == 1 && u.sbiHolds) = true ∧
    after (.bisw2 (.lit 1) (.base (.abs 0x2013FFFF))) (fun u => u.datip.isNone && u.posted.length == 0) = true := by decide +kernel

/-- 65_uba.md R901, R913, R931: a device's DATIP that goes on to a second UNIBUS keeps the flip-flop there until the device gives up. -/
theorem test_device_datip :
    let uba (tr num : Nat) : Config.Uba := { tr := tr, num := num, level := 5, devices := [[0x3F000]] }
    let ready (u : UbaState) : UbaState := { u with phase := .ready, map := [(0, 0x80100BF8)] }
    let s := ((State.resetOf { Config.Params.default with ubas := [uba 3 0, uba 4 1] }).onUba 0 ready).onUba 1 ready
    (match step { s with agenda := [.unibus 0 (.datip 0), .unibus 0 .abandon] } with
      | .next t => t.bus.ubas.map (·.datip) == [none, some (.adapter 0)] &&
        match step t with
        | .next v => v.bus.ubas.map (·.datip) == [none, none]
        | _ => false
      | _ => false) = true := by decide +kernel

/-- 10_state.md R89: SBIQC, number 54, is write-only and its writes are ignored (decision D10). -/
theorem test_sbiqc : runs (writeIpr 54 0x2000) w0 (fun _ t => t == w0) = true := by decide +kernel

/-- The two deferred forms: the pointer at 2000 in w0; an index register that the base does not step; SP in I/O space; values in
registers and memory, over one page and two, with memory management on and off; quadwords with and without errors. -/
theorem witness_OperandModes :
    (2 : Reg) ≠ rPC ∧ ¬((2 : Reg) = rSP ∧ DType.l.size = 8) ∧ w0.pointsToIo w0.sp = false ∧ w0.pointsToIo (w0.sp - 4) = false ∧
    ends (loadVirtIn w0.cur true false false (w0.reg 2) 4)
      ((w0.setPc (w0.pc + BitVec.ofNat 32 ((Spec.base (.autoIncDef 2)).length .l))).setReg 2 (w0.reg 2 + 4)) ∧
    [BaseSpec.dispBDef 2 4, .dispWDef 2 4, .dispLDef 2 4].all (fun b =>
      let s := w0.setPc (w0.pc + BitVec.ofNat 32 ((Spec.base b).length .l))
      ends (loadVirtIn w0.cur true false false (s.reg 2 + 4) 4) s) ∧
    [BaseSpec.regDef 2, .autoInc 2, .autoIncDef 2, .dispLDef 2 4].all (fun b => !indexUnpredictable 1 b &&
      ends (evalBase 4 true b) (w0.setPc (w0.pc + BitVec.ofNat 32 ((Spec.index 1 b).length .l)))) ∧
    (w0.setReg rSP 0x20000000).pointsToIo 0x20000000 = true ∧ (w0.setReg rSP 0).pointsToIo (0 - 4) = true ∧ (w0.setReg rSP 0x1FFFFFFF).pointsToIo 0x1FFFFFFF = false ∧
    [Spec.reg 1, .lit 5, .base (.regDef 2)].all (fun sp => ends (locate .read (intType 32) true sp) w0) ∧
    runs (translateRange true 0x2000 4 false w0.cur) w0 (fun pas t => !touchesIo pas && t.errs.memory == [] &&
      pas.map t.memByte == ([0x12, 0x3C, 0x56, 0x78] : List Byte).map some) ∧
    (paged 0).ipr.mapen = true ∧ runs (translate true 0x1FE false 3) (paged 0) (fun pa t => pa == 0xA1FE &&
      runs (translate true 0x200 false 3) t fun pa2 _ => pa2 == 0xA200) ∧
    (4 : Nat) ≤ 512 - (0x1FC : Word).toNat % 512 ∧ 512 - (0x1FE : Word).toNat % 512 < 4 ∧
    [((0x2000 : Nat), some false), (0x3000, some true), (0x4000, none)].all (fun (pa, e) =>
      inError.cell pa == some pa && (inError.errorAt pa).map (·.double) == e && (inError.bankOf pa).map (·.2) == some 0) ∧
    inError.errs.regC.length = 1 ∧ Memory.wf inError.mem = true := by decide +kernel

theorem ready_user : Ready user := by
  refine ⟨?_, ?_, ?_, ⟨?_, ?_⟩, ?_, ?_, ?_⟩ <;> decide +kernel

/-- The state user with MOVL R1, R2 at its PC. -/
def coded : State := (storeBytes user 0x1000 [0xD0, 0x51, 0x52]).sync

theorem witness_StepRunsDecoded :
    Ready user ∧ Ready coded ∧ runs (fetchInstr) coded.fetching (fun i _ => i == some (.movl (.reg 1) (.reg 2))) ∧
    coded.ipr.mapen = false ∧ coded.errs.memory = [] ∧ coded.stale = [] ∧ coded.prefetched = [] ∧ (Instr.movl (.reg 1) (.reg 2)).WellFormed = true ∧
    (∀ k (h : k < (encode (.movl (.reg 1) (.reg 2))).length),
      coded.plainByte (coded.pc + num k) = some (encode (.movl (.reg 1) (.reg 2)))[k]) := by
  refine ⟨ready_user, ⟨?_, ?_, ?_, ⟨?_, ?_⟩, ?_, ?_, ?_⟩, ?_, ?_, ?_, ?_, ?_, ?_, ?_⟩ <;> decide +kernel

/-- The user state with a software interrupt of level 15 requested, and with TP set. -/
def interrupted : State := storeBytes { user with ipr := { user.ipr with sisr := 0x8002 } } (0x400 + 0xBC) [0, 0x50]
def traced : State := { user with psl := user.psl ||| 0x40000000 }

theorem witness_StepOrder :
    State.reset.agenda = [] ∧ State.reset.run.halted = true ∧
    { user with run := { user.run with haltReq := true } }.run.halted = false ∧
    interrupted.pendingInterrupt = some (15, .software 15) ∧ interrupted.run.haltReq = false ∧
    interrupted.run.stepsLeft ≠ some 0 ∧
    { user with console := { user.console with stepMode := .bus } }.console.clockStopped = true ∧ user.console.clockStopped = false ∧
    metTakes ⟨(IntSource.software 15).vector 15 0, [], interrupted.pc, interrupted.psl, some 15, none⟩
      (interrupted.acknowledge 15 (.software 15)) ∧
    traced.pendingInterrupt = none ∧ traced.psl.getLsbD 30 = true ∧
    metTakes ⟨0x28, [], traced.pc, traced.psl &&& 0xBFFFFFFF, none, none⟩ { traced with psl := traced.psl &&& 0xBFFFFFFF } := by
  decide +kernel

/-- Levels 1 and 15 are requested; a NEXUS of the default configuration requests at level 15 (hex). -/
theorem witness_InterruptsArbitrated :
    interrupted.ipl.toNat < 15 ∧ interrupted.requestAt 1 = some (.software 1) ∧ interrupted.requestAt 14 = none ∧
    user.pendingInterrupt = none ∧ State.reset.firstNexus 5 = some 3 ∧ State.reset.requestAt 0x15 = some (.nexus 3) ∧
    { user with errs := { user.errs with requests := 0x21 } }.requestAt 0x1D = some .busError := by
  decide +kernel

/-- A vector of code 3; a vector 04 of code 0; stacks at 100000, where no memory is. -/
theorem witness_EventFailures :
    runs (physReadLong true (user.ipr.scbb.toNat + 0x20)) (storeBytes user 0x420 [3, 0x50]) (fun v _ => v == 0x5003) ∧
    runs (physReadLong true (user.ipr.scbb.toNat + 4)) (storeBytes user 0x404 [0, 0x50]) (fun v _ => v == 0x5000) ∧
    (match readOp 32 (.base (.regDef 3)) true inError.opened with
      | .error .readData _ => true
      | _ => false) = true ∧
    metTakes ⟨4, [0], 0x1000, 0x041F0000, none, none⟩ (scb inError) ∧
    (match (pushAllIn 0 true [user.psl, user.pc] (paged 0x03C00000) : EStateM.Result Trap State Unit) with
      | .error (.fault _ _) _ => true
      | _ => false) = true ∧ (paged 0x03C00000).onIntStack = false ∧ (paged 0x041F0000).onIntStack = true ∧
    (let s := onInterruptStack.setReg rSP 0x100004
     match (pushAllIn 0 true [s.psl, s.pc] (s.eventStack false 0) : EStateM.Result Trap State Unit) with
      | .error (.machineCheck _) _ => true
      | _ => false) = true ∧
    State.reset.cfg.mchkLongs = 0 ∧
    [kernelProcess, user, onInterruptStack].all (fun s =>
      metTakes ⟨4, [0], s.pc, s.psl, none, none⟩ { s with ipr := { s.ipr with sbita := 0x40000 } }) ∧
    [kernelProcess, user].all (fun s => metTakes ⟨8, [], s.pc, s.psl, none, none⟩ s) := by decide +kernel

theorem legal_user : PslLegal user.psl := by refine ⟨⟨?_, ?_, ?_, ?_⟩, ?_, ?_, ?_⟩ <;> decide +kernel

theorem legal_ipr : IprLegal user.ipr := by refine ⟨⟨?_, ?_⟩, ⟨?_, ?_⟩, ⟨?_, ?_⟩, ⟨?_, ?_⟩, ?_, ?_⟩ <;> decide +kernel

/-- User mode runs MOVL R1, R2. -/
theorem witness_StepKeepsState :
    Memory.wf (storeBytes user 0x1000 [0xD0, 0x51, 0x52]).mem = true ∧ IprLegal user.ipr ∧
    lands [0xD0, 0x51, 0x52] user (fun _ => true) = true := ⟨by decide +kernel, legal_ipr, by decide +kernel⟩

theorem witness_StepKeepsPsl :
    let turn : State := { user with agenda := [.cpu, .todrTick] }
    user.agenda = [] ∧ (∃ rest, turn.agenda = .cpu :: rest) ∧ PslLegal user.psl ∧ turn.psl = user.psl ∧
    lands [0xD0, 0x51, 0x52] user (fun _ => true) = true ∧ lands [0xD0, 0x51, 0x52] turn (fun _ => true) = true :=
  ⟨by decide +kernel, ⟨[.todrTick], by decide +kernel⟩, legal_user, by decide +kernel, by decide +kernel, by decide +kernel⟩

/-- CHMU stays in user mode. -/
theorem witness_UserConfined :
    PslLegal user.psl ∧ user.cur ≠ 0 ∧ user.run.halted = false ∧
    (match exec (.chmu (.lit 7)) user with
      | .next t => t.cur != 0 && !t.run.halted
      | _ => false) = true := ⟨legal_user, by decide +kernel, by decide +kernel, by decide +kernel⟩

/-- The protection code, validity and modify bit of the PTE of a system page, and what must be known of it. -/
def pteOf (s : State) (va : Word) : Option Word := s.memLong ((s.ipr.sbr.toNat + 4 * (va.toNat / 512 % 2 ^ 21)) % 2 ^ 30)

/-- Memory management off; the three regions and the last page inside and the first outside each; a PTE that denies, one that
is not valid, one not modified, one modified; a P0 page table outside the system region, past its length, in a page that
denies and in one that is not valid. -/
theorem witness_Translates :
    user.ipr.mapen = false ∧ (paged 0).ipr.mapen = true ∧ (paged 0).tb = [] ∧ (paged 0).mapLog = [] ∧ (paged 0).errs.memory = [] ∧
    [(0x00000400, true), (0x000003FF, false), (0x80000800, true), (0x800007FF, false), (0x7FFFFFFF, false), (0xC0000000, true)].all
      (fun (va, out) => outsideRegion (paged 0).ipr va == out) ∧
    outsideRegion { (paged 0).ipr with p1lr := 0x1FFFFF } 0x7FFFFDFF = true ∧
    [(0x80000000, 4), (0x80000200, 15), (0x80000400, 0), (0x80000600, 2)].all (fun (va, code) =>
      (pteOf (paged 0) va).map pteCode == some code) ∧
    [(0x80000000, true), (0x80000600, false)].all (fun (va, valid) =>
      (pteOf (paged 0) va).map (·.getLsbD 31) == some valid && (pteOf (paged 0) va).map (·.getLsbD 26) == some false) ∧
    modeMay 4 3 true = true ∧ modeMay 15 3 false = true ∧ modeMay 11 3 false = false ∧ modeMay 15 0 true = false ∧
    [(0x00000000, 0x8000, 0xA0000050), (0x00000200, 0x8004, 0xA4000051)].all (fun ((va, at_, pte) : Word × Nat × Word) =>
      !outsideTable (paged 0).ipr va && (paged 0).memLong (systemPteAt (paged 0).ipr (processPteVa (paged 0).ipr va)) == some 0xA0000040 &&
      (0xA0000040 : Word).toNat % 2 ^ 21 * 512 + (processPteVa (paged 0).ipr va).toNat % 512 == at_ &&
      (paged 0).memLong at_ == some pte && pteCode pte == 4) ∧ TableReadable 0xA0000040 ∧
    [0x80000800, 0x7FFFF000].all (fun p0br : Word => outsideTable { (paged 0).ipr with p0br := p0br } 0) ∧
    pteOf (paged 0) 0x80000400 = some 0x80000042 ∧ pteOf (paged 0) 0x80000600 = some 0x10000043 ∧
    [(0x80000400, 0x80000400), (0x80000600, 0x80000600)].all (fun ((p0br, page) : Word × Word) =>
      !outsideTable { (paged 0).ipr with p0br := p0br } 0 && processPteVa { (paged 0).ipr with p0br := p0br } 0 == page) ∧
    IprLegal (paged 0).ipr := by
  refine ⟨?_, ?_, ?_, ?_, ?_, ?_, ?_, ?_, ?_, ?_, ?_, ?_, ?_, ?_, ?_, ?_, ?_, ?_, ?_, ⟨?_, ?_⟩, ⟨?_, ?_⟩, ⟨?_, ?_⟩, ⟨?_, ?_⟩, ?_, ?_⟩ <;>
  decide +kernel

/-- Every register written with a value it takes, at the ends of its range. -/
theorem witness_ProcessorRegisters :
    [(0, 0xFFFFFFFF), (1, 0xFFFFFFFF), (2, 0xFFFFFFFF), (3, 0xFFFFFFFF), (4, 0xFFFFFFFF), (8, 0xBFFFFFFC), (9, 0x3FFFFF),
      (10, 0x7F800000), (11, 0x3FFFFF), (12, 0x3FFFFFFC), (13, 0x3FFFFF), (16, 0x3FFFFFFC), (17, 0x3FFFFE00), (18, 0x1F), (19, 4),
      (21, 0xFFFE), (27, 0xFFFFFFFF), (44, 0xFFFF), (48, 0), (50, 0), (51, 0), (52, 0), (56, 1), (60, 0x1FFF), ((61 : Nat), (1 : Word))].all
      (fun (n, v) => ends (writeIpr n v) kernelProcess) ∧
    kernelProcess.cfg.todrPresent = true ∧ (0x40000000 : Word).toNat / 2 ^ 30 ≠ 2 ∧ (0x80000001 : Word).toNat % 4 ≠ 0 ∧
    5 ≤ (0xFFFFFFFD : Word).toNat % 8 := by decide +kernel

/-- Register numbers that do not exist, at the ends of the table's gaps, and those read-only and write-only; a request of
level 15 and of level 0. -/
theorem witness_RegisterChecks :
    [5, 7, 14, 20, 25, 31, 35, 54, 57, 58, 63, 0xFFFFFFFF].all (fun n => !ends (readIpr n) kernelProcess) ∧
    [5, 7, 14, 26, 33, 49, 53, 62, 63, 0xFFFFFFFF].all (fun n => !ends (writeIpr n 0) kernelProcess) ∧
    (0xFFFFFFFF : Word).toNat % 16 ≠ 0 ∧ (0xFFFFFFF0 : Word).toNat % 16 = 0 := by decide +kernel

/-- The interval clock running, at its last count and before it; a character waited for and one to take. -/
theorem witness_ClocksAndTerminal :
    let s : State := { user with
      agenda := [.intervalTick], console := { user.console with programIo := true }
      ipr := { user.ipr with iccs := { user.ipr.iccs with run := true }, icr := 0xFFFFFFFE, txRdy := false } }
    s.agenda = .intervalTick :: [] ∧ s.ipr.iccs.run = true ∧ s.ipr.icr ≠ 0xFFFFFFFF ∧ s.ipr.icr + 1 = 0xFFFFFFFF ∧
    { s with agenda := [.todrTick] }.cfg.todrPresent = true ∧
    { s with agenda := [.deliver 0 0x41] }.agenda = .deliver 0 0x41 :: [] ∧ s.run.halted = false ∧
    s.console.programIo = true ∧ s.ipr.rxDone = false ∧ s.ipr.txRdy = false := by decide +kernel

/-- Bytes loaded up to the last of memory, the longword there examined, a start. -/
theorem witness_ConsoleBoots :
    State.reset.console.programIo = false ∧ State.reset.errs.memory = [] ∧ State.reset.run.halted = true ∧ Memory.wf State.reset.mem = true ∧
    (∀ i, i < 2 → (State.reset.memByte ((0xFFFFE : Word).toNat % 2 ^ 30 + i)).isSome = true) ∧
    State.reset.console.relocation = 0 ∧ (0xFFFFC : Word).toNat % 2 ^ 30 + 3 < ioBase ∧
    State.reset.memLong ((0xFFFFC : Word).toNat % 2 ^ 30) = some 0 ∧ State.reset.console.stepMode = .none ∧
    State.reset.console.clockStopped = false ∧ State.reset.cfg.versions ≠ .fatal := by decide +kernel

/-- MASSBUS adapter 0 of the default configuration in a transfer from 1FC on, four bytes before the end of page 0, which map register
0 puts at A00; 16 bytes to move. -/
def massbus (kind : Config.MbaTransfer) (silo : List Byte) : MbaState :=
  { MbaState.reset with
    sr := 0x80000000, transfer := some kind, first := true, var := 0x1FC, bcr := 0xFFF0FFF0, map := [(0, 0x80000005)], silo := silo }

/-- That adapter about to have a turn. -/
def massbusTurnOf (m : MbaState) (e : MassbusEvent) : State := { State.reset.setMba 0 m with agenda := [.massbus 0 e] }

/-- 66_mba.md R1013, R1014, R1041: the first quadword of a drive-to-memory transfer that starts in the middle of a quadword. -/
theorem test_massbus_quadword :
    (match step (massbusTurnOf (massbus .read [1, 2, 3, 4, 5]) .quadword) with
      | .next t => t.bus.mbas.map (fun y => (y.var.toNat, y.bcr.toNat, y.silo)) == [(0x204, 0xFFF4FFF0, [5])] &&
          (List.range 6).map (fun i => t.memByte (0xBFB + i)) == [some 0, some 1, some 2, some 3, some 4, some 0]
      | _ => false) = true := by decide +kernel

/-- The hypotheses of MassbusRegisters for the longword at an offset of the adapter's block. -/
def metMassbus (s : State) (off : Nat) (p : MbaState → Bool) : Bool :=
  let va : Word := BitVec.ofNat 32 (0x20010000 + off)
  !s.ipr.mapen && va.toNat % 4 == 0 && decide (ioBase ≤ va.toNat % 2 ^ 30) &&
  match s.responder (va.toNat % 2 ^ 30) with
  | some (.mba 0 c m, o) => o == off && c.drives.isEmpty && p m
  | _ => false

/-- The adapter idle, and busy; writes of CR without and with INIT. -/
theorem witness_MassbusRegisters :
    [0, 4, 8, 0xC, 0x10, 0x400, 0x7FC, 0x800, 0xBFC].all (metMassbus State.reset · fun m => !m.sr.getLsbD 31 && !m.sr.getLsbD 16) ∧
    [4, 0xC, 0x10, 0x18, 0x800, 0xBFC].all (metMassbus (State.reset.setMba 0 (massbus .read [])) · fun m => m.sr.getLsbD 31) ∧
    (6 : Word).getLsbD 3 = false ∧ (6 : Word).getLsbD 0 = false ∧ (6 : Word).getLsbD 1 = true ∧ (1 : Word).getLsbD 3 = false ∧
    (1 : Word).getLsbD 0 = true := by decide +kernel

/-- The start of a transfer; a quadword each way, with an invalid map register too; words each way, the last two of the count among
them; the ends. -/
theorem witness_MassbusTransfers :
    State.reset.cfg.mbas.length = 1 ∧ State.reset.errs.memory = [] ∧ Memory.wf State.reset.mem = true ∧
    [MassbusEvent.start, .quadword, .driveWord 0x0201, .driveTake, .endOfBlock].all (fun e =>
      let s := massbusTurnOf (massbus .read []) e
      s.agenda == [.massbus 0 e] && s.bus.mbas == [massbus .read []]) ∧
    (List.range 8).all (fun i => State.reset.memByte (5 * 512 + 0x1F8 + i) == some 0) ∧
    (let m := massbus .read [1, 2, 3, 4, 5]
     !m.aborting && !m.counted && !m.massCounted && (sparseRead m.map (m.var.toNat / 512)).getLsbD 31 &&
      min (8 - m.var.toNat % 8) (65536 - m.bcr.toNat / 65536) == 4 && decide (m.bcr.toNat % 65536 + 2 ≤ 65536) &&
      !(sparseRead { m with var := 0x200 }.map 1).getLsbD 31 && !{ m with sr := 0 }.sr.getLsbD 31) = true := by decide +kernel

/-- The default adapter with map register 0 valid, for page 5; register 495 is not valid. -/
theorem witness_AdapterTransfers :
    let x : UbaState := { UbaState.reset with map := [(0, 0x80000005)] }
    let s : State := { State.reset with bus := { State.reset.bus with ubas := [x] } }
    s.bus.ubas[0]? = some x ∧ s.errs.memory = [] ∧ x.phase = .ready ∧ x.sbiHolds = false ∧ x.ddpLock = false ∧ x.hold = none ∧ x.late = false ∧ (0x1FE : BitVec 18).toNat % 2 = 0 ∧
    (0x1FE : BitVec 18).toNat / 512 < 496 ∧ x.uacr.toNat / 2 ^ 26 % 32 = 0 ∧
    (sparseRead x.map 0).getLsbD 31 = true ∧ (sparseRead x.map 0).toNat / 2 ^ 21 % 16 = 0 ∧
    (sparseRead x.map 0).toNat % 2 ^ 21 * 512 + 0x1FE + 1 < ioBase ∧ s.memByte 0xBFE = some 0 ∧ s.memByte 0xBFF = some 0 ∧
    Memory.wf s.mem = true ∧ (0x3DE00 : BitVec 18).toNat / 512 = 495 ∧ (sparseRead x.map 495).getLsbD 31 = false ∧
    x.uasr = 0 := by decide +kernel
end Sys2Proof.Tests
end

section
/-! The floating formats and the values of their data (44_float.md R600, R602), and the integers next to a value
(R628, R634). -/
namespace Sys2Proof.Machine
open Sys2Proof

/-! ### The fields of a datum (R600) -/

theorem fExp_eq {w : Nat} (x : BitVec w) : fExp x = x.toNat / 128 % 256 := by
  rw [fExp, BitVec.extractLsb'_toNat, Nat.shiftRight_eq_div_pow]

theorem fSign_eq {w : Nat} (x : BitVec w) : fSign x = decide (x.toNat / 2 ^ 15 % 2 = 1) := by
  rw [fSign, BitVec.getLsbD, Nat.testBit_eq_decide_div_mod_eq]

theorem fExp_lt {w : Nat} (x : BitVec w) : fExp x < 256 := (x.extractLsb' 7 8).isLt

theorem fFrac_lt {w : Nat} (x : BitVec w) : fFrac x < 2 ^ (w - 9) := Nat.mod_lt _ (Nat.two_pow_pos _)

theorem toNat_swapWords_32 (x : Word) : (swapWords x).toNat = x.toNat % 2 ^ 16 * 2 ^ 16 + x.toNat / 2 ^ 16 := by
  have hx := x.isLt
  have hswap : swapNat 2 x.toNat = x.toNat % 2 ^ 16 * 2 ^ 16 + x.toNat / 2 ^ 16 := by
    simp only [swapNat, Nat.reducePow]; omega
  rw [swapWords, BitVec.toNat_ofNat, show 32 / 16 = 2 by rfl, hswap]
  exact Nat.mod_eq_of_lt (by omega)

theorem toNat_swapWords_64 (x : BitVec 64) : (swapWords x).toNat = x.toNat % 2 ^ 16 * 2 ^ 48 +
    x.toNat / 2 ^ 16 % 2 ^ 16 * 2 ^ 32 + x.toNat / 2 ^ 32 % 2 ^ 16 * 2 ^ 16 + x.toNat / 2 ^ 48 := by
  have hx := x.isLt
  have hswap : swapNat 4 x.toNat = x.toNat % 2 ^ 16 * 2 ^ 48 +
      x.toNat / 2 ^ 16 % 2 ^ 16 * 2 ^ 32 + x.toNat / 2 ^ 32 % 2 ^ 16 * 2 ^ 16 + x.toNat / 2 ^ 48 := by
    simp only [swapNat, Nat.reducePow, Nat.reduceMul, Nat.div_div_eq_div_mul]; omega
  rw [swapWords, BitVec.toNat_ofNat, show 64 / 16 = 4 by rfl, hswap]
  exact Nat.mod_eq_of_lt (by omega)

theorem swapWords_swapWords_32 (x : Word) : swapWords (swapWords x) = x := by
  have hx := x.isLt
  apply BitVec.eq_of_toNat_eq
  rw [toNat_swapWords_32, toNat_swapWords_32]
  omega

theorem toNat_swapWords_64_of_words {x : BitVec 64} {a b c d : Nat} (ha : a < 2 ^ 16) (hb : b < 2 ^ 16) (hc : c < 2 ^ 16)
    (hx : x.toNat = a + b * 2 ^ 16 + c * 2 ^ 32 + d * 2 ^ 48) :
    (swapWords x).toNat = d + c * 2 ^ 16 + b * 2 ^ 32 + a * 2 ^ 48 := by
  have h0 : x.toNat % 2 ^ 16 = a := by omega
  have h1 : x.toNat / 2 ^ 16 % 2 ^ 16 = b := by omega
  have h2 : x.toNat / 2 ^ 32 % 2 ^ 16 = c := by omega
  have h3 : x.toNat / 2 ^ 48 = d := by omega
  rw [toNat_swapWords_64, h0, h1, h2, h3]
  omega

theorem swapWords_swapWords_64 (x : BitVec 64) : swapWords (swapWords x) = x := by
  have hx := x.isLt
  have hwords : x.toNat = x.toNat % 2 ^ 16 + x.toNat / 2 ^ 16 % 2 ^ 16 * 2 ^ 16 + x.toNat / 2 ^ 32 % 2 ^ 16 * 2 ^ 32 +
      x.toNat / 2 ^ 48 * 2 ^ 48 := by omega
  have hswap := toNat_swapWords_64_of_words (by omega) (by omega) (by omega) hwords
  apply BitVec.eq_of_toNat_eq
  rw [toNat_swapWords_64_of_words (by omega) (by omega) (by omega) hswap, ← hwords]

theorem fFrac_32 (x : Word) : fFrac x = x.toNat % 128 * 2 ^ 16 + x.toNat / 2 ^ 16 := by
  have hx := x.isLt
  rw [fFrac, toNat_swapWords_32]
  omega

theorem fFrac_64 (x : BitVec 64) : fFrac x = x.toNat % 128 * 2 ^ 48 + x.toNat / 2 ^ 16 % 2 ^ 16 * 2 ^ 32 +
    x.toNat / 2 ^ 32 % 2 ^ 16 * 2 ^ 16 + x.toNat / 2 ^ 48 := by
  have hx := x.isLt
  rw [fFrac, toNat_swapWords_64]
  omega

/-- A format of w bits whose words, in the opposite order, hold sign and exponent in their top nine bits: its fields, packed, are
the datum. -/
theorem packFloat_fields {w : Nat} {x : BitVec w} (hw : 9 ≤ w) (hinv : swapWords (swapWords x) = x)
    (htop : (swapWords x).toNat / 2 ^ (w - 9) = x.toNat / 128 % 512) :
    packFloat w (fSign x) (fExp x) (2 ^ (w - 9) + fFrac x) = x := by
  have hsign : (if fSign x then 2 ^ (w - 1) else 0) = x.toNat / 2 ^ 15 % 2 * 256 * 2 ^ (w - 9) := by
    have hpow : 2 ^ (w - 1) = 256 * 2 ^ (w - 9) := by rw [show w - 1 = 8 + (w - 9) by omega, Nat.pow_add]
    obtain h | h := Nat.mod_two_eq_zero_or_one (x.toNat / 2 ^ 15)
    · rw [fSign_eq, h, if_neg (by decide), Nat.zero_mul]
    · rw [fSign_eq, h, if_pos (by decide), hpow, Nat.one_mul]
  have hfields : (if fSign x then 2 ^ (w - 1) else 0) + fExp x * 2 ^ (w - 9) + (2 ^ (w - 9) + fFrac x) % 2 ^ (w - 9) =
      (swapWords x).toNat := by
    calc
      _ = (x.toNat / 2 ^ 15 % 2 * 256 + x.toNat / 128 % 256) * 2 ^ (w - 9) + (swapWords x).toNat % 2 ^ (w - 9) := by
        rw [hsign, fExp_eq, Nat.add_mod_left, fFrac, Nat.mod_mod, Nat.add_mul]
      _ = (swapWords x).toNat / 2 ^ (w - 9) * 2 ^ (w - 9) + (swapWords x).toNat % 2 ^ (w - 9) := by
        rw [htop, show x.toNat / 2 ^ 15 % 2 * 256 + x.toNat / 128 % 256 = x.toNat / 128 % 512 by omega]
      _ = (swapWords x).toNat := Nat.div_add_mod' _ _
  rw [packFloat, hfields, BitVec.ofNat_toNat, BitVec.setWidth_eq, hinv]

theorem packFloat_fields_32 (x : Word) : packFloat 32 (fSign x) (fExp x) (2 ^ 23 + fFrac x) = x := by
  have hx := x.isLt
  have hlow : x.toNat % 2 ^ 16 = x.toNat / 128 % 512 * 128 + x.toNat % 128 := by omega
  exact packFloat_fields (by decide) (swapWords_swapWords_32 x) (by rw [toNat_swapWords_32, hlow]; omega)

theorem packFloat_fields_64 (x : BitVec 64) : packFloat 64 (fSign x) (fExp x) (2 ^ 55 + fFrac x) = x := by
  have hx := x.isLt
  have hlow : x.toNat % 2 ^ 16 = x.toNat / 128 % 512 * 128 + x.toNat % 128 := by omega
  exact packFloat_fields (by decide) (swapWords_swapWords_64 x) (by rw [toNat_swapWords_64, hlow]; omega)

/-- An F datum with zeros appended is the D datum of the same sign and exponent, its fraction the one of F, extended. -/
theorem fields_setWidth (x : Word) : fSign (x.setWidth 64) = fSign x ∧ fExp (x.setWidth 64) = fExp x ∧
    fFrac (x.setWidth 64) = fFrac x * 2 ^ 32 := by
  have hx := x.isLt
  have hn : (x.setWidth 64).toNat = x.toNat := by rw [BitVec.toNat_setWidth]; omega
  refine ⟨by rw [fSign_eq, fSign_eq, hn], by rw [fExp_eq, fExp_eq, hn], ?_⟩
  rw [fFrac_64, fFrac_32, hn]
  omega

/-! ### The value of a datum (R600) -/

theorem fVal_of_exp_zero {w : Nat} {x : BitVec w} (h : fExp x = 0) : fVal x = ⟨0, 0⟩ := by
  rw [fVal, if_pos h]

theorem fReserved_of_exp_zero {w : Nat} {x : BitVec w} (h : fExp x = 0) : fReserved x = fSign x := by
  rw [fReserved, h, beq_self_eq_true, Bool.and_true]

theorem fReserved_of_exp_pos {w : Nat} {x : BitVec w} (h : 0 < fExp x) : fReserved x = false := by
  rw [fReserved, beq_false_of_ne (Nat.ne_of_gt h), Bool.and_false]

theorem fVal_of_exp_pos {w : Nat} {x : BitVec w} (h : 0 < fExp x) :
    fVal x = ⟨if fSign x then -((2 ^ (w - 9) + fFrac x : Nat) : Int) else ((2 ^ (w - 9) + fFrac x : Nat) : Int),
      (fExp x : Int) - 128 - ((w - 8 : Nat) : Int)⟩ := by
  rw [fVal, if_neg (Nat.ne_of_gt h)]

theorem fVal_natAbs {w : Nat} {x : BitVec w} (h : 0 < fExp x) : (fVal x).m.natAbs = 2 ^ (w - 9) + fFrac x := by
  rw [fVal_of_exp_pos h]
  split
  · rw [Int.natAbs_neg, Int.natAbs_natCast]
  · rw [Int.natAbs_natCast]

theorem fVal_neg_iff {w : Nat} {x : BitVec w} (h : 0 < fExp x) : (fVal x).m < 0 ↔ fSign x = true := by
  have hpos : (0 : Int) < ((2 ^ (w - 9) + fFrac x : Nat) : Int) :=
    Int.natCast_pos.2 (Nat.add_pos_left (Nat.two_pow_pos _) _)
  rw [fVal_of_exp_pos h]
  split
  · next hs => exact iff_of_true (Int.neg_neg_of_pos hpos) hs
  · next hs => exact iff_of_false (Int.not_lt.2 (Int.le_of_lt hpos)) hs

theorem fVal_e {w : Nat} {x : BitVec w} (h : 0 < fExp x) :
    (fVal x).e = (fExp x : Int) - 128 - ((w - 8 : Nat) : Int) := by
  rw [fVal_of_exp_pos h]

/-! ### Storing a value that a datum holds exactly (R602) -/

/-- A number of k + 1 bits is exact with p bits, p not being less: it is only shifted up. -/
theorem roundRatio_exact {p k n : Nat} (hkp : k < p) (hlo : 2 ^ k ≤ n) (hhi : n < 2 ^ (k + 1)) :
    roundRatio p n 1 = (n * 2 ^ (p - (k + 1)), ((k + 1 : Nat) : Int)) := by
  have hpos : 0 < n := Nat.lt_of_lt_of_le (Nat.two_pow_pos k) hlo
  have hlog : n.log2 = k := (Nat.log2_eq_iff (Nat.ne_of_gt hpos)).2 ⟨hlo, hhi⟩
  have hlog1 : Nat.log2 1 = 0 := by decide
  have he : (k : Int) - ((0 : Nat) : Int) + 1 = ((k + 1 : Nat) : Int) := by omega
  have hsh : ((p : Int) - ((k + 1 : Nat) : Int)).toNat = p - (k + 1) := by omega
  have hneg : (-((p : Int) - ((k + 1 : Nat) : Int))).toNat = 0 := by omega
  have hlt : n * 2 ^ (p - (k + 1)) < 2 ^ p := by
    calc n * 2 ^ (p - (k + 1)) < 2 ^ (k + 1) * 2 ^ (p - (k + 1)) := Nat.mul_lt_mul_of_pos_right hhi (Nat.two_pow_pos _)
      _ = 2 ^ p := by rw [← Nat.pow_add, Nat.add_sub_cancel' hkp]
  have hhalf : (2 * (n * 2 ^ (p - (k + 1))) + 1) / 2 = n * 2 ^ (p - (k + 1)) := by omega
  simp only [roundRatio, hlog, hlog1, Nat.pow_zero, Nat.mul_one, Nat.one_mul, if_pos hlo, he, hsh, hneg, hhalf]
  exact if_neg (Nat.ne_of_lt hlt)

/-- A datum's value is stored, in its own format or a longer one, with the datum's sign and exponent, zeros being appended to
the significand. -/
theorem fStore_fVal {v w : Nat} {x : BitVec v} (hv : 9 ≤ v) (hvw : v ≤ w) (h : 0 < fExp x) :
    fStore w (fVal x) = ⟨packFloat w (fSign x) (fExp x) ((2 ^ (v - 9) + fFrac x) * 2 ^ (w - v)), .none⟩ := by
  have hf := fFrac_lt x
  have hexp := fExp_lt x
  have hround : roundRatio (w - 8) (2 ^ (v - 9) + fFrac x) 1 =
      ((2 ^ (v - 9) + fFrac x) * 2 ^ (w - v), ((v - 8 : Nat) : Int)) := by
    rw [roundRatio_exact (k := v - 9) (by omega) (by omega) (by rw [Nat.pow_succ]; omega),
      show v - 9 + 1 = v - 8 by omega, show w - 8 - (v - 8) = w - v by omega]
  have hm : (fVal x).m ≠ 0 := by
    rw [← Int.natAbs_ne_zero, fVal_natAbs h]
    exact Nat.ne_of_gt (Nat.add_pos_left (Nat.two_pow_pos _) _)
  have hs : decide ((fVal x).m < 0) = fSign x := by simp only [fVal_neg_iff h, Bool.decide_eq_true]
  have he : ((v - 8 : Nat) : Int) + (fVal x).e = (fExp x : Int) - 128 := by rw [fVal_e h]; omega
  rw [fStore, fStoreRatio, if_neg hm, fVal_natAbs h, hround]
  simp only [hs, he]
  rw [if_neg (by omega), if_neg (by omega), Int.sub_add_cancel, Int.toNat_natCast]

theorem fStore_32_fVal_32 {x : Word} (h : 0 < fExp x) : fStore 32 (fVal x) = ⟨x, .none⟩ := by
  rw [fStore_fVal (by decide) (by decide) h, Nat.sub_self, Nat.pow_zero, Nat.mul_one, packFloat_fields_32]

theorem fStore_64_fVal_64 {x : BitVec 64} (h : 0 < fExp x) : fStore 64 (fVal x) = ⟨x, .none⟩ := by
  rw [fStore_fVal (by decide) (by decide) h, Nat.sub_self, Nat.pow_zero, Nat.mul_one, packFloat_fields_64]

theorem fStore_64_fVal_32 {x : Word} (h : 0 < fExp x) : fStore 64 (fVal x) = ⟨x.setWidth 64, .none⟩ := by
  obtain ⟨hs, he, hf⟩ := fields_setWidth x
  have hsig : (2 ^ 23 + fFrac x) * 2 ^ 32 = 2 ^ 55 + fFrac (x.setWidth 64) := by rw [hf]; omega
  rw [fStore_fVal (by decide) (by decide) h, hsig, ← hs, ← he, packFloat_fields_64]

/-! ### A value against an integer: the exponent is a natural number, or the value is m over a power of two -/

/-- The exact difference, both values being brought to the smaller exponent lo. -/
theorem FVal.sub_eq {m k e f lo : Int} {a b : Nat} (hlo : min e f = lo) (ha : e - lo = a) (hb : f - lo = b) :
    FVal.sub ⟨m, e⟩ ⟨k, f⟩ = ⟨m * 2 ^ a - k * 2 ^ b, lo⟩ := by
  simp only [FVal.sub, FVal.add, FVal.neg, alignTo, hlo, ha, hb, Int.toNat_natCast, Int.neg_mul, Int.sub_eq_add_neg]

theorem FVal.sub_int_ofNat (m k : Int) (j : Nat) : FVal.sub ⟨m, Int.ofNat j⟩ ⟨k, 0⟩ = ⟨m * 2 ^ j - k, 0⟩ := by
  rw [FVal.sub_eq (e := Int.ofNat j) (a := j) (b := 0) (Int.min_eq_right (Int.natCast_nonneg j)) (Int.sub_zero _) rfl,
    Int.pow_zero, Int.mul_one]

theorem FVal.sub_int_negSucc (m k : Int) (j : Nat) :
    FVal.sub ⟨m, Int.negSucc j⟩ ⟨k, 0⟩ = ⟨m - k * 2 ^ (j + 1), Int.negSucc j⟩ := by
  rw [FVal.sub_eq (a := 0) (b := j + 1) (Int.min_eq_left (by omega)) (by omega) (by omega), Int.pow_zero, Int.mul_one]

theorem FVal.half_sub_negSucc (m : Int) (j : Nat) :
    FVal.sub ⟨1, -1⟩ ⟨m, Int.negSucc j⟩ = ⟨2 ^ j - m, Int.negSucc j⟩ := by
  rw [FVal.sub_eq (a := j) (b := 0) (Int.min_eq_right (by omega)) (by omega) (by omega), Int.pow_zero, Int.mul_one,
    Int.one_mul]

theorem FVal.sub_half_negSucc (m : Int) (j : Nat) :
    FVal.sub ⟨m, Int.negSucc j⟩ ⟨1, -1⟩ = ⟨m - 2 ^ j, Int.negSucc j⟩ := by
  rw [FVal.sub_eq (a := 0) (b := j) (Int.min_eq_left (by omega)) (by omega) (by omega), Int.pow_zero, Int.mul_one,
    Int.one_mul]

theorem FVal.mag_lt_ofNat (m k : Int) (j : Nat) :
    (FVal.mag ⟨m, Int.ofNat j⟩).lt ⟨k, 0⟩ = decide ((m.natAbs : Int) * 2 ^ j < k) := by
  rw [FVal.mag, FVal.lt, FVal.sub_int_ofNat, decide_eq_decide]
  exact ⟨Int.lt_of_sub_neg, Int.sub_neg_of_lt⟩

theorem FVal.mag_lt_negSucc (m k : Int) (j : Nat) :
    (FVal.mag ⟨m, Int.negSucc j⟩).lt ⟨k, 0⟩ = decide ((m.natAbs : Int) < k * 2 ^ (j + 1)) := by
  rw [FVal.mag, FVal.lt, FVal.sub_int_negSucc, decide_eq_decide]
  exact ⟨Int.lt_of_sub_neg, Int.sub_neg_of_lt⟩

theorem mul_two_pow_mul_self_nonneg (m : Int) (j : Nat) : 0 ≤ m * 2 ^ j * m := by
  rw [Int.mul_right_comm, ← Int.natAbs_mul_self]
  exact Int.mul_nonneg (Int.natCast_nonneg _) (Int.pow_nonneg (by decide))

/-! ### The truncated integer (R628) -/

theorem FVal.trunc_ofNat (m : Int) (j : Nat) : FVal.trunc ⟨m, Int.ofNat j⟩ = m * 2 ^ j := by
  rw [FVal.trunc]
  exact if_pos (Int.natCast_nonneg j)

theorem FVal.trunc_negSucc (m : Int) (j : Nat) : FVal.trunc ⟨m, Int.negSucc j⟩ = m.tdiv (2 ^ (j + 1)) := by
  rw [FVal.trunc, if_neg (Int.not_le.2 (Int.negSucc_lt_zero j))]
  rfl

/-- The truncated integer is the largest in magnitude that does not pass the value, and has its sign. -/
theorem FVal.trunc_spec (v : FVal) : v.mag.lt ⟨v.trunc.natAbs, 0⟩ = false ∧
    v.mag.lt ⟨v.trunc.natAbs + 1, 0⟩ = true ∧ 0 ≤ v.trunc * v.m := by
  obtain ⟨m, j | j⟩ := v
  case ofNat =>
    have habs : ((m * 2 ^ j).natAbs : Int) = (m.natAbs : Int) * 2 ^ j := by
      rw [Int.natAbs_mul, Int.natAbs_pow, Int.natCast_mul, Int.natCast_pow]; rfl
    rw [FVal.mag_lt_ofNat, FVal.mag_lt_ofNat, FVal.trunc_ofNat, habs]
    exact ⟨decide_eq_false (Int.lt_irrefl _), decide_eq_true (Int.lt_succ _), mul_two_pow_mul_self_nonneg m j⟩
  case negSucc =>
    have habs : ((m.tdiv (2 ^ (j + 1))).natAbs : Int) = ((m.natAbs / 2 ^ (j + 1) : Nat) : Int) := by
      rw [Int.natAbs_tdiv, Int.natAbs_pow]; rfl
    have hlo : m.natAbs / 2 ^ (j + 1) * 2 ^ (j + 1) ≤ m.natAbs := Nat.div_mul_le_self _ _
    have hhi : m.natAbs < (m.natAbs / 2 ^ (j + 1) + 1) * 2 ^ (j + 1) :=
      Nat.lt_mul_of_div_lt (Nat.lt_succ_self _) (Nat.two_pow_pos _)
    rw [FVal.mag_lt_negSucc, FVal.mag_lt_negSucc, FVal.trunc_negSucc, habs]
    refine ⟨decide_eq_false (Int.not_lt.2 (by exact_mod_cast hlo)), decide_eq_true (by exact_mod_cast hhi), ?_⟩
    have hpow : (0 : Int) ≤ 2 ^ (j + 1) := Int.pow_nonneg (by decide)
    obtain hm | hm := Int.le_total 0 m
    · exact Int.mul_nonneg (Int.tdiv_nonneg hm hpow) hm
    · have hneg := Int.tdiv_nonneg (Int.neg_nonneg_of_nonpos hm) hpow
      rw [Int.neg_tdiv] at hneg
      exact Int.mul_nonneg_of_nonpos_of_nonpos (by omega) hm

/-! ### The nearest integer (R634) -/

theorem FVal.round_ofNat (m : Int) (j : Nat) : FVal.round ⟨m, Int.ofNat j⟩ = m * 2 ^ j := by
  rw [FVal.round]
  exact if_pos (Int.natCast_nonneg j)

/-- The magnitude of the nearest integer to m over 2 to the j + 1, with the sign of m. -/
theorem FVal.round_negSucc (m : Int) (j : Nat) : FVal.round ⟨m, Int.negSucc j⟩ =
    if m < 0 then -(((m.natAbs + 2 ^ j) / 2 ^ (j + 1) : Nat) : Int) else (((m.natAbs + 2 ^ j) / 2 ^ (j + 1) : Nat) : Int) := by
  have hhalf : (2 * m.natAbs + 2 ^ (j + 1)) / (2 * 2 ^ (j + 1)) = (m.natAbs + 2 ^ j) / 2 ^ (j + 1) := by
    rw [Nat.pow_succ', ← Nat.mul_add, Nat.mul_div_mul_left _ _ Nat.two_pos]
  simp only [FVal.round, if_neg (Int.not_le.2 (Int.negSucc_lt_zero j)), Int.neg_negSucc]
  rw [← hhalf]
  rfl

theorem FVal.round_mul_nonneg (v : FVal) : 0 ≤ v.round * v.m := by
  obtain ⟨m, j | j⟩ := v
  case ofNat => rw [FVal.round_ofNat]; exact mul_two_pow_mul_self_nonneg m j
  case negSucc =>
    rw [FVal.round_negSucc]
    split
    · next hm => exact Int.mul_nonneg_of_nonpos_of_nonpos (Int.neg_nonpos_of_nonneg (Int.natCast_nonneg _)) (Int.le_of_lt hm)
    · next hm => exact Int.mul_nonneg (Int.natCast_nonneg _) (Int.not_lt.1 hm)

theorem FVal.sub_round_ofNat (m : Int) (j : Nat) :
    FVal.sub ⟨m, Int.ofNat j⟩ ⟨FVal.round ⟨m, Int.ofNat j⟩, 0⟩ = ⟨0, 0⟩ := by
  rw [FVal.round_ofNat, FVal.sub_int_ofNat, Int.sub_self]

theorem FVal.natAbs_round_negSucc (m : Int) (j : Nat) :
    (FVal.round ⟨m, Int.negSucc j⟩).natAbs = (m.natAbs + 2 ^ j) / 2 ^ (j + 1) := by
  rw [FVal.round_negSucc]
  split
  · rw [Int.natAbs_neg, Int.natAbs_natCast]
  · rw [Int.natAbs_natCast]

/-- What is left of m over 2 to the j + 1 when its nearest integer is taken away, by the remainder of |m| + 2 to the j. -/
theorem FVal.sub_round_negSucc (m : Int) (j : Nat) :
    (FVal.sub ⟨m, Int.negSucc j⟩ ⟨FVal.round ⟨m, Int.negSucc j⟩, 0⟩).mag =
      ⟨((((m.natAbs + 2 ^ j) % 2 ^ (j + 1) : Nat) : Int) - 2 ^ j).natAbs, Int.negSucc j⟩ := by
  have hdiv : (((m.natAbs + 2 ^ j) / 2 ^ (j + 1) : Nat) : Int) * 2 ^ (j + 1) + ((m.natAbs + 2 ^ j) % 2 ^ (j + 1) : Nat) =
      m.natAbs + 2 ^ j := by exact_mod_cast Nat.div_add_mod' (m.natAbs + 2 ^ j) (2 ^ (j + 1))
  have habs : (m - FVal.round ⟨m, Int.negSucc j⟩ * 2 ^ (j + 1)).natAbs =
      ((((m.natAbs + 2 ^ j) % 2 ^ (j + 1) : Nat) : Int) - 2 ^ j).natAbs := by
    rw [FVal.round_negSucc]
    split
    · next hm => exact Int.natAbs_eq_natAbs_iff.2 (.inr (by rw [Int.neg_mul]; omega))
    · next hm => exact Int.natAbs_eq_natAbs_iff.2 (.inl (by omega))
  rw [FVal.sub_int_negSucc]
  exact congrArg (fun n : Nat => (⟨n, Int.negSucc j⟩ : FVal)) habs

theorem FVal.half_lt_negSucc (t : Int) (j : Nat) : FVal.lt ⟨1, -1⟩ ⟨t, Int.negSucc j⟩ = decide (2 ^ j < t) := by
  rw [FVal.lt, FVal.half_sub_negSucc, decide_eq_decide]
  exact ⟨Int.lt_of_sub_neg, Int.sub_neg_of_lt⟩

theorem FVal.eq_half_negSucc (t : Int) (j : Nat) : FVal.eq ⟨t, Int.negSucc j⟩ ⟨1, -1⟩ = true ↔ t = 2 ^ j := by
  rw [FVal.eq, FVal.sub_half_negSucc, beq_iff_eq]
  exact Int.sub_eq_zero

/-- The nearest integer is at most a half away from the value, and beyond it when it is a half away. -/
theorem FVal.round_spec (v : FVal) : FVal.lt ⟨1, -1⟩ (v.sub ⟨v.round, 0⟩).mag = false ∧
    ((v.sub ⟨v.round, 0⟩).mag.eq ⟨1, -1⟩ = true → v.mag.lt ⟨v.round.natAbs, 0⟩ = true) := by
  obtain ⟨m, j | j⟩ := v
  case ofNat => rw [FVal.sub_round_ofNat]; exact ⟨by decide, fun h => absurd h (by decide)⟩
  case negSucc =>
    have hpow : 2 ^ (j + 1) = 2 * 2 ^ j := Nat.pow_succ'
    have hhalf : (2 : Int) ^ j = (2 ^ j : Nat) := by norm_cast
    have hpos : 0 < 2 ^ j := Nat.two_pow_pos j
    have hrem : (m.natAbs + 2 ^ j) % 2 ^ (j + 1) < 2 * 2 ^ j := hpow ▸ Nat.mod_lt _ (Nat.two_pow_pos _)
    have hdiv := Nat.div_add_mod' (m.natAbs + 2 ^ j) (2 ^ (j + 1))
    rw [FVal.sub_round_negSucc, FVal.half_lt_negSucc, FVal.eq_half_negSucc, FVal.mag_lt_negSucc, FVal.natAbs_round_negSucc,
      hhalf]
    generalize (m.natAbs + 2 ^ j) % 2 ^ (j + 1) = rem at *
    constructor
    · exact decide_eq_false (by omega)
    · intro htie
      have hbeyond : m.natAbs < (m.natAbs + 2 ^ j) / 2 ^ (j + 1) * 2 ^ (j + 1) := by omega
      exact decide_eq_true (by exact_mod_cast hbeyond)

/-! ### The obligation -/

theorem fVal_32_fields {x : Word} (h : 0 < fExp x) : (fVal x).m.natAbs = 2 ^ 23 + fFrac x ∧
    ((fVal x).m < 0 ↔ x.getLsbD 15 = true) ∧ (fVal x).e = (fExp x : Int) - 152 :=
  ⟨fVal_natAbs h, fVal_neg_iff h, by rw [fVal_e h]; omega⟩

theorem fVal_64_fields {x : BitVec 64} (h : 0 < fExp x) : (fVal x).m.natAbs = 2 ^ 55 + fFrac x ∧
    ((fVal x).m < 0 ↔ x.getLsbD 15 = true) ∧ (fVal x).e = (fExp x : Int) - 184 :=
  ⟨fVal_natAbs h, fVal_neg_iff h, by rw [fVal_e h]; omega⟩

theorem fVal_zero_and_reserved {w : Nat} {x : BitVec w} (h : fExp x = 0) :
    fVal x = ⟨0, 0⟩ ∧ (fReserved x = true ↔ x.getLsbD 15 = true) :=
  ⟨fVal_of_exp_zero h, by rw [fReserved_of_exp_zero h, fSign]⟩

/-- Settles O33: the fields and values of both formats, storing a datum's own value, and the two integers next to a value. -/
theorem floatValues : Obligations.FloatValues := by
  unfold Obligations.FloatValues
  simp only [← fExp_eq]
  exact ⟨⟨fFrac_32, fFrac_64, fun _ => fVal_32_fields, fun _ => fVal_zero_and_reserved,
      fun _ => fVal_64_fields, fun _ => fVal_zero_and_reserved,
      fun _ h => ⟨fReserved_of_exp_pos h, fStore_32_fVal_32 h, fStore_64_fVal_32 h⟩,
      fun _ h => ⟨fReserved_of_exp_pos h, fStore_64_fVal_64 h⟩⟩,
    fun v => ⟨v.trunc_spec, v.round_spec.1, v.round_spec.2, v.round_mul_nonneg⟩⟩

end Sys2Proof.Machine
end

section
/-! Decoding and encoding are inverse to each other (30_encoding.md R240 to R264). -/
namespace Sys2Proof

/-! ### Items of the instruction stream (R243) -/

@[simp] theorem length_leBytes (n v : Nat) : (leBytes n v).length = n := by
  induction n generalizing v with
  | zero => rfl
  | succ n ih => simp [leBytes, ih]

theorem leValue_leBytes (n v : Nat) : leValue (leBytes n v) = v % 256 ^ n := by
  induction n generalizing v with
  | zero => simp [leBytes, leValue, Nat.mod_one]
  | succ n ih =>
    have hm : v % (256 * 256 ^ n) = v % 256 + 256 * (v / 256 % 256 ^ n) := Nat.mod_mul
    rw [Nat.pow_succ', hm, leBytes, leValue, ih, BitVec.toNat_ofNat]

theorem leValue_lt (bs : List Byte) : leValue bs < 256 ^ bs.length := by
  induction bs with
  | nil => simp [leValue]
  | cons b bs ih =>
    have hb := b.isLt
    rw [leValue, List.length_cons, Nat.pow_succ]
    omega

theorem leBytes_leValue (bs : List Byte) : leBytes bs.length (leValue bs) = bs := by
  induction bs with
  | nil => rfl
  | cons b bs ih =>
    have hb : (b.toNat + 256 * leValue bs) / 256 = leValue bs := by have := b.isLt; omega
    rw [List.length_cons, leValue, leBytes, hb, ih, List.cons.injEq]
    exact ⟨BitVec.eq_of_toNat_eq (by rw [BitVec.toNat_ofNat]; omega), rfl⟩

theorem takeBytes_append (xs rest : List Byte) : takeBytes xs.length (xs ++ rest) = some (xs, rest) := by
  induction xs with
  | nil => rfl
  | cons x xs ih => simp [takeBytes, ih]

theorem takeBytes_eq_some {n : Nat} {bs xs rest : List Byte} (h : takeBytes n bs = some (xs, rest)) :
    xs.length = n ∧ bs = xs ++ rest := by
  induction n generalizing bs xs with
  | zero => cases h; exact ⟨rfl, rfl⟩
  | succ n ih =>
    cases bs with
    | nil => cases h
    | cons b bs =>
      obtain ⟨⟨ys, r⟩, hp, hq⟩ := Option.map_eq_some_iff.mp h
      cases hq
      obtain ⟨hl, rfl⟩ := ih hp
      exact ⟨by simp [hl], rfl⟩

theorem takeBytes_isSome {n : Nat} {bs : List Byte} (h : n ≤ bs.length) : (takeBytes n bs).isSome = true := by
  rw [← List.take_append_drop n bs]
  have hl : (bs.take n).length = n := List.length_take_of_le h
  conv => lhs; arg 1; arg 1; rw [← hl]
  rw [takeBytes_append]; rfl

/-- An item of the stream is read back whatever follows. -/
theorem decodeItem_leBytes {α : Type} {n w : Nat} (k : BitVec w → α) (v : BitVec w) (rest : List Byte)
    (h : v.toNat < 2 ^ (8 * n)) : decodeItem n w k (leBytes n v.toNat ++ rest) = some (k v, rest) := by
  have hv : leValue (leBytes n v.toNat) = v.toNat := by
    rw [leValue_leBytes, Nat.mod_eq_of_lt (by rwa [show (256 : Nat) = 2 ^ 8 from rfl, ← Nat.pow_mul])]
  have ht := takeBytes_append (leBytes n v.toNat) rest
  rw [length_leBytes] at ht
  rw [decodeItem, ht, Option.map_some, hv, BitVec.ofNat_toNat, BitVec.setWidth_eq]

/-- The bytes an item was read from are its encoding. -/
theorem decodeItem_eq_some {α : Type} {n w : Nat} {k : BitVec w → α} {bs rest : List Byte} {a : α} (hw : 8 * n ≤ w)
    (h : decodeItem n w k bs = some (a, rest)) :
    ∃ v : BitVec w, a = k v ∧ v.toNat < 2 ^ (8 * n) ∧ leBytes n v.toNat ++ rest = bs := by
  obtain ⟨⟨xs, r⟩, hp, hq⟩ := Option.map_eq_some_iff.mp h
  cases hq
  obtain ⟨rfl, rfl⟩ := takeBytes_eq_some hp
  have hlt : leValue xs < 2 ^ (8 * xs.length) := by
    rw [Nat.pow_mul]; exact leValue_lt xs
  have hv : (BitVec.ofNat w (leValue xs)).toNat = leValue xs := by
    rw [BitVec.toNat_ofNat, Nat.mod_eq_of_lt (Nat.lt_of_lt_of_le hlt (Nat.pow_le_pow_right (by decide) hw))]
  exact ⟨_, rfl, by rwa [hv], by rw [hv, leBytes_leValue]⟩

/-- A stream that ends inside an item can be completed. -/
theorem decodeItem_eq_none {α : Type} {n w : Nat} {k : BitVec w → α} {bs : List Byte} (h : decodeItem n w k bs = none) :
    ∃ more a, decodeItem n w k (bs ++ more) = some (a, []) := by
  have hlen : bs.length < n := by
    refine Nat.lt_of_not_le fun hge => ?_
    have hs := takeBytes_isSome hge
    rw [Option.map_eq_none_iff.mp h] at hs
    cases hs
  refine ⟨List.replicate (n - bs.length) 0, ?_⟩
  have ht := takeBytes_append (bs ++ List.replicate (n - bs.length) 0) []
  rw [List.append_nil, List.length_append, List.length_replicate, Nat.add_sub_cancel' (Nat.le_of_lt hlen)] at ht
  exact ⟨_, by rw [decodeItem, ht]; rfl⟩

/-! ### Specifiers (R248, R249, R253, R254, R260) -/

theorem specByte_toNat {mode : Nat} (n : Reg) (h : mode < 16) : (specByte mode n).toNat = 16 * mode + n.val := by
  have := n.isLt
  rw [specByte, BitVec.toNat_ofNat]
  omega

theorem specReg_specByte {mode : Nat} (n : Reg) (h : mode < 16) : specReg (specByte mode n) = n := by
  have := n.isLt
  apply Fin.ext
  rw [specReg]
  dsimp only
  rw [specByte_toNat n h]
  omega

theorem specByte_specReg {b : Byte} {mode : Nat} (h : b.toNat / 16 = mode) : specByte mode (specReg b) = b := by
  have := b.isLt
  apply BitVec.eq_of_toNat_eq
  rw [specByte_toNat _ (by omega), specReg]
  dsimp only
  omega

theorem DType.bits_le (ty : DType) : 8 * ty.size ≤ 64 := by cases ty <;> decide

/-- A base specifier is read back from its bytes; the first has a mode from 6 on, so it is no byte R260 reserves under an index. -/
theorem decodeBase_encodeBase (ty : DType) (b : BaseSpec) (rest : List Byte) (h : b.wellFormed ty = true) :
    ∃ c cs, encodeBase ty b = c :: cs ∧ 0x60 ≤ c.toNat ∧ decodeBase ty c (cs ++ rest) = some (b, rest) := by
  have hb (mode : Nat) (n : Reg) (h6 : 6 ≤ mode) (h16 : mode < 16) : 0x60 ≤ (specByte mode n).toNat := by
    rw [specByte_toNat n h16]; omega
  have hm (mode : Nat) (n : Reg) (h16 : mode < 16) : (specByte mode n).toNat / 16 = mode := by
    rw [specByte_toNat n h16]; omega
  have h8 (d : BitVec 8) : d.toNat < 2 ^ (8 * 1) := d.isLt
  have h16 (d : BitVec 16) : d.toNat < 2 ^ (8 * 2) := d.isLt
  have h32 (d : BitVec 32) : d.toNat < 2 ^ (8 * 4) := d.isLt
  cases b with
  | regDef n => exact ⟨_, _, rfl, hb 6 n (by decide) (by decide), by simp [decodeBase, hm, specReg_specByte]⟩
  | autoDec n => exact ⟨_, _, rfl, hb 7 n (by decide) (by decide), by simp [decodeBase, hm, specReg_specByte]⟩
  | autoInc n =>
    have hn : n ≠ rPC := by simpa [BaseSpec.wellFormed] using h
    exact ⟨_, _, rfl, hb 8 n (by decide) (by decide), by simp [decodeBase, hm, specReg_specByte, hn]⟩
  | imm v =>
    have hv : v.toNat < 2 ^ (8 * ty.size) := by simpa [BaseSpec.wellFormed] using h
    exact ⟨0x8F, _, rfl, by decide, by rw [← decodeItem_leBytes BaseSpec.imm v rest hv]; rfl⟩
  | autoIncDef n =>
    have hn : n ≠ rPC := by simpa [BaseSpec.wellFormed] using h
    exact ⟨_, _, rfl, hb 9 n (by decide) (by decide), by simp [decodeBase, hm, specReg_specByte, hn]⟩
  | abs a => exact ⟨0x9F, _, rfl, by decide, by rw [← decodeItem_leBytes BaseSpec.abs a rest (h32 a)]; rfl⟩
  | dispB n d =>
    exact ⟨_, _, rfl, hb 10 n (by decide) (by decide), by
      simpa [decodeBase, hm, specReg_specByte] using decodeItem_leBytes (BaseSpec.dispB n) d rest (h8 d)⟩
  | dispBDef n d =>
    exact ⟨_, _, rfl, hb 11 n (by decide) (by decide), by
      simpa [decodeBase, hm, specReg_specByte] using decodeItem_leBytes (BaseSpec.dispBDef n) d rest (h8 d)⟩
  | dispW n d =>
    exact ⟨_, _, rfl, hb 12 n (by decide) (by decide), by
      simpa [decodeBase, hm, specReg_specByte] using decodeItem_leBytes (BaseSpec.dispW n) d rest (h16 d)⟩
  | dispWDef n d =>
    exact ⟨_, _, rfl, hb 13 n (by decide) (by decide), by
      simpa [decodeBase, hm, specReg_specByte] using decodeItem_leBytes (BaseSpec.dispWDef n) d rest (h16 d)⟩
  | dispL n d =>
    exact ⟨_, _, rfl, hb 14 n (by decide) (by decide), by
      simpa [decodeBase, hm, specReg_specByte] using decodeItem_leBytes (BaseSpec.dispL n) d rest (h32 d)⟩
  | dispLDef n d =>
    exact ⟨_, _, rfl, hb 15 n (by decide) (by decide), by
      simpa [decodeBase, hm, specReg_specByte] using decodeItem_leBytes (BaseSpec.dispLDef n) d rest (h32 d)⟩

/-- The bytes a base specifier was read from are its encoding. -/
theorem decodeBase_eq_some {ty : DType} {b : Byte} {bs rest : List Byte} {s : BaseSpec} (hb : 0x60 ≤ b.toNat)
    (h : decodeBase ty b bs = some (s, rest)) : s.wellFormed ty = true ∧ encodeBase ty s ++ rest = b :: bs := by
  have hreg {mode : Nat} (hm : b.toNat / 16 = mode) : specByte mode (specReg b) = b := specByte_specReg hm
  have hpc {mode : Nat} (hm : b.toNat / 16 = mode) (hn : specReg b = rPC) : b = specByte mode rPC := by rw [← hn, hreg hm]
  unfold decodeBase at h
  dsimp only at h
  split at h
  case h_1 hm | h_2 hm => cases h; exact ⟨rfl, by rw [encodeBase, hreg hm]; rfl⟩
  case h_3 hm =>
    split at h
    case isTrue hn =>
      obtain ⟨v, rfl, hv, rfl⟩ := decodeItem_eq_some ty.bits_le h
      exact ⟨by simpa [BaseSpec.wellFormed] using hv, by rw [hpc hm hn]; rfl⟩
    case isFalse hn => cases h; exact ⟨by simpa [BaseSpec.wellFormed] using hn, by rw [encodeBase, hreg hm]; rfl⟩
  case h_4 hm =>
    split at h
    case isTrue hn =>
      obtain ⟨v, rfl, -, rfl⟩ := decodeItem_eq_some (by decide) h
      exact ⟨rfl, by rw [hpc hm hn]; rfl⟩
    case isFalse hn => cases h; exact ⟨by simpa [BaseSpec.wellFormed] using hn, by rw [encodeBase, hreg hm]; rfl⟩
  case h_5 hm | h_6 hm | h_7 hm | h_8 hm | h_9 hm =>
    obtain ⟨d, rfl, -, rfl⟩ := decodeItem_eq_some (by decide) h
    exact ⟨rfl, by rw [encodeBase, hreg hm]; rfl⟩
  case h_10 h6 h7 h8 h9 hA hB hC hD hE =>
    have hm : b.toNat / 16 = 15 := by
      have hlt := b.isLt
      simp only [imp_false] at *
      omega
    obtain ⟨d, rfl, -, rfl⟩ := decodeItem_eq_some (by decide) h
    exact ⟨rfl, by rw [encodeBase, hreg hm]; rfl⟩

/-- A stream that ends inside a base specifier can be completed. -/
theorem decodeBase_eq_none {ty : DType} {b : Byte} {bs : List Byte} (h : decodeBase ty b bs = none) :
    ∃ more s, decodeBase ty b (bs ++ more) = some (s, []) := by
  unfold decodeBase at h ⊢
  dsimp only at h ⊢
  split at h
  case h_1 | h_2 => cases h
  case h_3 | h_4 =>
    split at h
    case isTrue hn => simpa only [if_pos hn] using decodeItem_eq_none h
    case isFalse => cases h
  all_goals exact decodeItem_eq_none h

/-- A specifier is read back from its bytes. -/
theorem decodeSpec_encodeSpec (ty : DType) (sp : Spec) (rest : List Byte) (h : sp.wellFormed ty = true) :
    decodeSpec ty (encodeSpec ty sp ++ rest) = some (sp, rest) := by
  cases sp with
  | lit v =>
    have hv : (v.setWidth 8).toNat < 0x40 := by rw [BitVec.toNat_setWidth]; have := v.isLt; omega
    have hw : (v.setWidth 8).setWidth 6 = v := by apply BitVec.eq_of_toNat_eq; simp
    simp only [encodeSpec, List.cons_append, List.nil_append, decodeSpec]
    rw [if_pos hv, hw]
  | reg n =>
    have hn := specByte_toNat (mode := 5) n (by decide)
    have := n.isLt
    simp only [encodeSpec, List.cons_append, List.nil_append, decodeSpec]
    rw [if_neg (by omega), if_neg (by omega), if_pos (by omega), specReg_specByte n (by decide)]
  | base b =>
    obtain ⟨c, cs, he, hc, hd⟩ := decodeBase_encodeBase ty b rest h
    simp only [encodeSpec, he, List.cons_append, decodeSpec]
    rw [if_neg (by omega), if_neg (by omega), if_neg (by omega), hd]
    rfl
  | index x b =>
    obtain ⟨c, cs, he, hc, hd⟩ := decodeBase_encodeBase ty b rest h
    have hx := specByte_toNat (mode := 4) x (by decide)
    have := x.isLt
    simp only [encodeSpec, he, List.cons_append, decodeSpec]
    rw [if_neg (by omega), if_pos (by omega), if_neg (by omega), hd, specReg_specByte x (by decide)]
    rfl
  | indexBad x c =>
    have hc : c.toNat < 0x60 := by simpa [Spec.wellFormed] using h
    have hx := specByte_toNat (mode := 4) x (by decide)
    have := x.isLt
    simp only [encodeSpec, List.cons_append, List.nil_append, decodeSpec]
    rw [if_neg (by omega), if_pos (by omega), if_pos hc, specReg_specByte x (by decide)]

/-- The bytes a specifier was read from are its encoding. -/
theorem decodeSpec_eq_some {ty : DType} {bs rest : List Byte} {sp : Spec} (h : decodeSpec ty bs = some (sp, rest)) :
    sp.wellFormed ty = true ∧ encodeSpec ty sp ++ rest = bs := by
  unfold decodeSpec at h
  split at h
  case h_1 => cases h
  case h_2 b bs =>
    split at h
    case isTrue hl =>
      cases h
      refine ⟨rfl, ?_⟩
      have hw : (b.setWidth 6).setWidth 8 = b := by apply BitVec.eq_of_toNat_eq; simp; omega
      rw [encodeSpec, hw]; rfl
    case isFalse hl =>
      split at h
      case isTrue hx =>
        have hb : specByte 4 (specReg b) = b := specByte_specReg (by omega)
        split at h
        case h_1 => cases h
        case h_2 c cs =>
          split at h
          case isTrue hc => cases h; exact ⟨by simpa [Spec.wellFormed] using hc, by rw [encodeSpec, hb]; rfl⟩
          case isFalse hc =>
            obtain ⟨⟨s, r⟩, hp, hq⟩ := Option.map_eq_some_iff.mp h
            cases hq
            obtain ⟨hw, he⟩ := decodeBase_eq_some (by omega) hp
            exact ⟨hw, by rw [encodeSpec, hb, List.cons_append, he]⟩
      case isFalse hx =>
        split at h
        case isTrue hr => cases h; exact ⟨rfl, by rw [encodeSpec, specByte_specReg (by omega)]; rfl⟩
        case isFalse hr =>
          obtain ⟨⟨s, r⟩, hp, hq⟩ := Option.map_eq_some_iff.mp h
          cases hq
          exact decodeBase_eq_some (by omega) hp

/-- A stream that ends inside a specifier can be completed; where nothing of it is there, by a short literal. -/
theorem decodeSpec_eq_none {ty : DType} {bs : List Byte} (h : decodeSpec ty bs = none) :
    ∃ more sp, decodeSpec ty (bs ++ more) = some (sp, []) := by
  cases bs with
  | nil => exact ⟨[0], .lit 0, rfl⟩
  | cons b bs =>
    simp only [List.cons_append, decodeSpec] at h ⊢
    split at h
    case isTrue => cases h
    case isFalse hl =>
      split at h
      case isTrue hx =>
        cases bs with
        | nil => exact ⟨[0], _, by simp [hl, hx]; rfl⟩
        | cons c cs =>
          simp only [List.cons_append] at h ⊢
          split at h
          case isTrue => cases h
          case isFalse hc =>
            obtain ⟨more, s, hs⟩ := decodeBase_eq_none (Option.map_eq_none_iff.mp h)
            exact ⟨more, _, by rw [if_neg hl, if_pos hx, if_neg hc, hs]; rfl⟩
      case isFalse hx =>
        split at h
        case isTrue => cases h
        case isFalse hr =>
          obtain ⟨more, s, hs⟩ := decodeBase_eq_none (Option.map_eq_none_iff.mp h)
          exact ⟨more, _, by rw [if_neg hl, if_neg hx, if_neg hr, hs]; rfl⟩

/-! ### Operands (R242, R264) -/

/-- The kinds the opcode map uses: a branch displacement is a byte or a word (R264). -/
def Kind.encodable (k : Kind) : Bool := k.acc != .branch || k == .bb || k == .bw

/-- An operand that is no displacement is a specifier. -/
theorem decodeOperand_of_ne_branch {k : Kind} (bs : List Byte) (h : k.acc ≠ .branch) :
    decodeOperand k bs = (decodeSpec k.ty bs).map fun p => (.spec p.1, p.2) := by
  obtain ⟨acc, ty⟩ := k
  cases acc with
  | branch => exact absurd rfl h
  | _ => rfl

theorem Kind.encodable_cases {k : Kind} (h : k.encodable = true) : k.acc ≠ .branch ∨ k = .bb ∨ k = .bw := by
  simpa [Kind.encodable, or_assoc] using h

/-- An operand is read back from its bytes. -/
theorem decodeOperand_encodeOperand {k : Kind} {o : Operand} (rest : List Byte) (h : o.wellFormed k = true) :
    decodeOperand k (encodeOperand k.ty o ++ rest) = some (o, rest) := by
  cases o with
  | spec sp =>
    obtain ⟨hk, hsp⟩ : k.acc ≠ .branch ∧ sp.wellFormed k.ty = true := by simpa [Operand.wellFormed] using h
    rw [decodeOperand_of_ne_branch _ hk, encodeOperand, decodeSpec_encodeSpec _ _ _ hsp]
    rfl
  | dispB d =>
    obtain rfl : k = .bb := by simpa [Operand.wellFormed] using h
    exact decodeItem_leBytes Operand.dispB d rest d.isLt
  | dispW d =>
    obtain rfl : k = .bw := by simpa [Operand.wellFormed] using h
    exact decodeItem_leBytes Operand.dispW d rest d.isLt

/-- The bytes an operand was read from are its encoding. -/
theorem decodeOperand_eq_some {k : Kind} {o : Operand} {bs rest : List Byte} (hk : k.encodable = true)
    (h : decodeOperand k bs = some (o, rest)) : o.wellFormed k = true ∧ encodeOperand k.ty o ++ rest = bs := by
  obtain hk | rfl | rfl := Kind.encodable_cases hk
  · rw [decodeOperand_of_ne_branch _ hk] at h
    obtain ⟨⟨sp, r⟩, hp, hq⟩ := Option.map_eq_some_iff.mp h
    cases hq
    obtain ⟨hw, he⟩ := decodeSpec_eq_some hp
    exact ⟨by simp [Operand.wellFormed, hk, hw], he⟩
  · obtain ⟨d, rfl, -, he⟩ := decodeItem_eq_some (by decide) h
    exact ⟨rfl, he⟩
  · obtain ⟨d, rfl, -, he⟩ := decodeItem_eq_some (by decide) h
    exact ⟨rfl, he⟩

/-- A stream that ends inside an operand can be completed. -/
theorem decodeOperand_eq_none {k : Kind} {bs : List Byte} (hk : k.encodable = true) (h : decodeOperand k bs = none) :
    ∃ more o, decodeOperand k (bs ++ more) = some (o, []) := by
  obtain hk | rfl | rfl := Kind.encodable_cases hk
  · rw [decodeOperand_of_ne_branch _ hk] at h
    obtain ⟨more, sp, hs⟩ := decodeSpec_eq_none (Option.map_eq_none_iff.mp h)
    exact ⟨more, .spec sp, by rw [decodeOperand_of_ne_branch _ hk, hs]; rfl⟩
  · exact decodeItem_eq_none h
  · exact decodeItem_eq_none h

/-- The operands of an instruction are read back from their bytes. -/
theorem decodeOperands_encodeOperands {ks : List Kind} {os : List Operand} (rest : List Byte)
    (h : operandsWellFormed ks os = true) : decodeOperands ks (encodeOperands ks os ++ rest) = some (os, rest) := by
  induction ks generalizing os with
  | nil =>
    cases os with
    | nil => rfl
    | cons o os => cases h
  | cons k ks ih =>
    cases os with
    | nil => cases h
    | cons o os =>
      obtain ⟨ho, hos⟩ : o.wellFormed k = true ∧ operandsWellFormed ks os = true := by simpa [operandsWellFormed] using h
      rw [encodeOperands, List.append_assoc, decodeOperands, decodeOperand_encodeOperand _ ho, Option.bind_some, ih hos]
      rfl

/-- The bytes that operands were read from are their encoding. -/
theorem decodeOperands_eq_some {ks : List Kind} {os : List Operand} {bs rest : List Byte}
    (hks : ∀ k ∈ ks, k.encodable = true) (h : decodeOperands ks bs = some (os, rest)) :
    operandsWellFormed ks os = true ∧ encodeOperands ks os ++ rest = bs := by
  induction ks generalizing os bs with
  | nil => cases h; exact ⟨rfl, rfl⟩
  | cons k ks ih =>
    rw [List.forall_mem_cons] at hks
    obtain ⟨⟨o, r⟩, ho, h⟩ := Option.bind_eq_some_iff.mp h
    obtain ⟨⟨os, r'⟩, hos, hq⟩ := Option.map_eq_some_iff.mp h
    cases hq
    obtain ⟨hw, he⟩ := decodeOperand_eq_some hks.1 ho
    obtain ⟨hws, hes⟩ := ih hks.2 hos
    exact ⟨by rw [operandsWellFormed, hw, hws]; rfl, by rw [encodeOperands, List.append_assoc, hes, he]⟩

/-- A stream that ends inside the operands can be completed. -/
theorem decodeOperands_eq_none {ks : List Kind} {bs : List Byte} (hks : ∀ k ∈ ks, k.encodable = true)
    (h : decodeOperands ks bs = none) : ∃ more os, decodeOperands ks (bs ++ more) = some (os, []) := by
  induction ks generalizing bs with
  | nil => cases h
  | cons k ks ih =>
    rw [List.forall_mem_cons] at hks
    obtain ⟨hk, hks⟩ := hks
    cases ho : decodeOperand k bs with
    | none =>
      obtain ⟨more, o, hmore⟩ := decodeOperand_eq_none hk ho
      obtain ⟨hw, he⟩ := decodeOperand_eq_some hk hmore
      obtain ⟨more', os, hos⟩ : ∃ more' os, decodeOperands ks more' = some (os, []) := by
        cases hnil : decodeOperands ks [] with
        | none => exact ih hks hnil
        | some p =>
          obtain ⟨os, r⟩ := p
          obtain ⟨-, hr⟩ := decodeOperands_eq_some hks hnil
          obtain ⟨-, rfl⟩ := List.append_eq_nil_iff.mp hr
          exact ⟨[], os, hnil⟩
      rw [List.append_nil] at he
      exact ⟨more ++ more', o :: os, by
        rw [← List.append_assoc, ← he, decodeOperands, decodeOperand_encodeOperand _ hw, Option.bind_some, hos]; rfl⟩
    | some p =>
      obtain ⟨o, r⟩ := p
      obtain ⟨hw, rfl⟩ := decodeOperand_eq_some hk ho
      rw [decodeOperands, ho, Option.bind_some, Option.map_eq_none_iff] at h
      obtain ⟨more, os, hos⟩ := ih hks h
      exact ⟨more, o :: os, by
        rw [List.append_assoc, decodeOperands, decodeOperand_encodeOperand _ hw, Option.bind_some, hos]; rfl⟩

/-! ### The opcode map (R240, R262, R263) -/

/-- Every instruction is built back by the row of its opcode. -/
theorem opRow_build_operands (i : Instr) : (opRow i.opcode).build i.operands = some i := by
  cases i <;> simp only [Instr.opcode, Instr.operands] <;> rfl

/-- P of every list of operands that has the form the kinds ask for, one quantifier for each operand. -/
def ForallOperands : List Kind → (List Operand → Prop) → Prop
  | [], P => P []
  | ⟨.branch, .b⟩ :: ks, P => ∀ d, ForallOperands ks fun os => P (.dispB d :: os)
  | ⟨.branch, _⟩ :: ks, P => ∀ d, ForallOperands ks fun os => P (.dispW d :: os)
  | _ :: ks, P => ∀ sp, ForallOperands ks fun os => P (.spec sp :: os)

theorem ForallOperands.of_wellFormed {ks : List Kind} {P : List Operand → Prop} {os : List Operand} (h : ForallOperands ks P)
    (hos : operandsWellFormed ks os = true) : P os := by
  induction ks generalizing P os with
  | nil =>
    cases os with
    | nil => exact h
    | cons o os => cases hos
  | cons k ks ih =>
    cases os with
    | nil => cases hos
    | cons o os =>
      obtain ⟨ho, hrest⟩ : o.wellFormed k = true ∧ operandsWellFormed ks os = true := by simpa [operandsWellFormed] using hos
      cases o with
      | spec sp =>
        obtain ⟨acc, ty⟩ := k
        cases acc with
        | branch => cases ho
        | _ => exact ih (P := fun os => P (.spec sp :: os)) (h sp) hrest
      | dispB d =>
        obtain rfl : k = .bb := by simpa [Operand.wellFormed] using ho
        exact ih (P := fun os => P (.dispB d :: os)) (h d) hrest
      | dispW d =>
        obtain rfl : k = .bw := by simpa [Operand.wellFormed] using ho
        exact ih (P := fun os => P (.dispW d :: os)) (h d) hrest

/-- What a row of the opcode map does: from operands of its shape it builds an instruction that has its opcode and them. -/
structure OpRow.Builds (op : Byte) (row : OpRow) : Prop where
  encodable : row.sig.all Kind.encodable = true
  build : ForallOperands row.sig fun os => ∃ i, row.build os = some i ∧ i.opcode = op ∧ i.operands = os

theorem opRow_builds (op : Byte) : (opRow op).Builds op := by
  have hall : ∀ n < 256, (opRow (BitVec.ofNat 8 n)).Builds (BitVec.ofNat 8 n) := by
    repeat' refine Nat.forall_lt_succ_right.2 ⟨?_, ?_⟩
    case refine_1 => exact fun n h => absurd h (Nat.not_lt_zero n)
    all_goals
      refine ⟨rfl, ?_⟩
      repeat intro _
      exact ⟨_, rfl, rfl, rfl⟩
  have hop := hall op.toNat op.isLt
  rwa [BitVec.ofNat_toNat, BitVec.setWidth_eq] at hop

theorem OpRow.Builds.sig_encodable {op : Byte} {row : OpRow} (h : row.Builds op) : ∀ k ∈ row.sig, k.encodable = true :=
  List.all_eq_true.mp h.encodable

theorem OpRow.Builds.build_eq_some {op : Byte} {row : OpRow} {os : List Operand} (h : row.Builds op)
    (hos : operandsWellFormed row.sig os = true) : ∃ i, row.build os = some i ∧ i.opcode = op ∧ i.operands = os :=
  h.build.of_wellFormed hos

/-! ### Instructions (R240, R241, R245) -/

/-- Where the operands can be read, there is an instruction with them and the opcode. -/
theorem decode_cons_of_operands {op : Byte} {bs rest : List Byte} {os : List Operand}
    (h : decodeOperands (opRow op).sig bs = some (os, rest)) :
    ∃ i, decode (op :: bs) = .ok (i, rest) ∧ i.opcode = op ∧ i.operands = os := by
  have hb := opRow_builds op
  obtain ⟨i, hi, hop, hos⟩ := hb.build_eq_some (decodeOperands_eq_some hb.sig_encodable h).1
  exact ⟨i, by rw [decode, h]; dsimp only; rw [hi], hop, hos⟩

theorem decode_cons_of_none {op : Byte} {bs : List Byte} (h : decodeOperands (opRow op).sig bs = none) :
    decode (op :: bs) = .error .truncated := by
  rw [decode, h]

/-- Settles O42: the operands are read back from their bytes, and the row of the opcode builds the instruction from them. -/
theorem decodeEncode : Obligations.DecodeEncode := by
  intro i rest h
  have hos : decodeOperands (opRow i.opcode).sig (encodeOperands i.sig i.operands ++ rest) = some (i.operands, rest) :=
    decodeOperands_encodeOperands rest h
  rw [encode, List.cons_append, decode, hos]
  dsimp only
  rw [opRow_build_operands]

/-- Settles O43: the operands read are well formed and have the bytes they were read from, so the row of the opcode builds an
instruction from them, and it has the same opcode and operands. -/
theorem encodeDecode : Obligations.EncodeDecode := by
  intro bs
  cases bs with
  | nil => exact ⟨fun _ _ h => (by cases h), by simp [decode], fun _ => ⟨[0x01], .nop, rfl⟩⟩
  | cons op bs =>
    have henc := (opRow_builds op).sig_encodable
    cases hd : decodeOperands (opRow op).sig bs with
    | none =>
      have hdec := decode_cons_of_none hd
      refine ⟨fun i rest h => (by rw [hdec] at h; cases h), by simp [hdec], fun _ => ?_⟩
      obtain ⟨more, os, hmore⟩ := decodeOperands_eq_none henc hd
      obtain ⟨i, hi, -, -⟩ := decode_cons_of_operands hmore
      exact ⟨more, i, hi⟩
    | some p =>
      obtain ⟨os, rest⟩ := p
      obtain ⟨i, hi, rfl, rfl⟩ := decode_cons_of_operands hd
      obtain ⟨hw, he⟩ := decodeOperands_eq_some henc hd
      refine ⟨fun j r h => ?_, by simp [hi], fun h => by rw [hi] at h; cases h⟩
      rw [hi] at h
      cases h
      exact ⟨hw, congrArg (i.opcode :: ·) he⟩

/-- Settles O44: each word is the encoding of the instruction beside it. -/
theorem decodesWords : Obligations.DecodesWords :=
  ⟨decodeEncode (.movl (.reg 1) (.reg 2)) [] rfl,
   decodeEncode (.addl3 (.lit 5) (.base (.regDef 2)) (.base (.autoDec 14))) [] rfl,
   decodeEncode (.movl (.base (.imm 0x12345678)) (.reg 0)) [] rfl,
   decodeEncode (.movw (.base (.abs 0x3000)) (.base (.dispB 3 0xFC))) [] rfl,
   decodeEncode (.movb (.index 1 (.autoInc 2)) (.base (.dispWDef 4 0x1234))) [] rfl,
   decodeEncode (.brw 0xFFFE) [] rfl,
   decodeEncode (.bneq 0x80) [] rfl,
   decodeEncode (.polyf (.lit 0x10) (.lit 2) (.base (.abs 0x3000))) [] rfl,
   decodeEncode (.chmk (.lit 7)) [] rfl,
   decodeEncode (.mtpr (.lit 0x1F) (.lit 0x12)) [] rfl,
   decodeEncode (.movp (.lit 3) (.base (.regDef 6)) (.base (.regDef 7))) [] rfl,
   decodeEncode (.movc3 (.lit 4) (.base (.regDef 6)) (.base (.regDef 7))) [] rfl,
   decodeEncode .escf [] rfl⟩

end Sys2Proof
end

section
/-! Where an operand is, by addressing mode (30_encoding.md R250 to R261, R265), what is read there, and errors of the array
(64_memory_controller.md R867, R868, R876, R880). -/
namespace Sys2Proof.Machine
open Sys2Proof

/-! ### The place of an operand (R250 to R261, R265) -/

/-- PC moved past a specifier (R243). -/
def State.past (s : State) (ty : DType) (sp : Spec) : State := s.setPc (s.pc + BitVec.ofNat 32 (sp.length ty))

/-- An operand based on SP is not in I/O space (20_memory.md R230). -/
def State.AllowsBase (s : State) (ty : DType) (b : BaseSpec) : Prop :=
  baseRegister b = some rSP → s.pointsToIo (addressedSp ty.size s.sp b) = false

variable {acc : Access} {ty : DType} {io : Bool} {s t : State} {a : Word}

theorem State.past_reg (s : State) (ty : DType) (sp : Spec) {n : Reg} (h : n ≠ rPC) : (s.past ty sp).reg n = s.reg n :=
  State.reg_setReg_ne s h _

theorem State.past_sp (s : State) (ty : DType) (sp : Spec) : (s.past ty sp).sp = s.sp := s.past_reg ty sp (by decide)

/-- Translation reads no register. -/
theorem State.pointsToIo_past (s : State) (ty : DType) (sp : Spec) (va : Word) :
    (s.past ty sp).pointsToIo va = s.pointsToIo va := rfl

theorem checkSp_past {b : BaseSpec} (sp : Spec) (h : s.AllowsBase ty b) :
    checkSp ty.size b (s.past ty sp) = .ok () (s.past ty sp) := by
  have hn : ¬(baseRegister b = some rSP ∧
      (s.past ty sp).pointsToIo (addressedSp ty.size (s.past ty sp).sp b) = true) := by
    rw [State.past_sp, State.pointsToIo_past]
    rintro ⟨hb, hp⟩
    exact absurd ((h hb).symm.trans hp) (by decide)
  exact congrFun (if_neg hn) _

theorem checkSp_past_refused {b : BaseSpec} (sp : Spec) (h : ¬s.AllowsBase ty b) :
    checkSp ty.size b (s.past ty sp) = .error (.refuse .ioSpaceReference) (s.past ty sp) := by
  have hp : baseRegister b = some rSP ∧
      (s.past ty sp).pointsToIo (addressedSp ty.size (s.past ty sp).sp b) = true := by
    rw [State.past_sp, State.pointsToIo_past]
    simpa [State.AllowsBase] using h
  exact congrFun (if_pos hp) _

theorem locate_lit (v : BitVec 6) : locate acc ty io (.lit v) s =
    if acc = .read then .ok (.const (literalValue ty v)) (s.past ty (.lit v))
    else .error (.fault 0x1C []) (s.past ty (.lit v)) := by
  cases acc <;> rfl

/-- The value of a short literal: exponent and fraction of a floating datum, or the integer (R253). -/
theorem literalValue_eq (ty : DType) (v : BitVec 6) : literalValue ty v =
    if ty = .f ∨ ty = .d then BitVec.ofNat 64 (0x4000 + 16 * v.toNat) else BitVec.ofNat 64 v.toNat := by
  have hv := v.isLt
  have hint : v.setWidth 64 = BitVec.ofNat 64 v.toNat := by
    apply BitVec.eq_of_toNat_eq; simp
  have hfloat : (0x4000 + (v.setWidth 64 <<< 4) : BitVec 64) = BitVec.ofNat 64 (0x4000 + 16 * v.toNat) := by
    apply BitVec.eq_of_toNat_eq
    simp [Nat.shiftLeft_eq]
    omega
  have hf : ty.isFloat = true ↔ ty = .f ∨ ty = .d := by cases ty <;> decide
  simp only [literalValue, hf, hint, ← hfloat]

theorem locate_reg {n : Reg} (ha : acc ≠ .address) (hpc : n ≠ rPC) (hsp : ¬(n = rSP ∧ ty.size = 8)) :
    locate acc ty io (.reg n) s = .ok (.reg n) (s.past ty (.reg n)) := by
  show (if acc = .address then reservedAddressing
    else if n = rPC ∨ (n = rSP ∧ ty.size = 8) then unpredictable else pure (.reg n) : M Loc) (s.past ty (.reg n)) = _
  rw [if_neg ha, if_neg (not_or.2 ⟨hpc, hsp⟩)]
  rfl

/-- The address of an immediate is that of its constant, which PC has just passed (R261). -/
theorem locate_imm {v : BitVec 64} (h : acc = .address ∨ acc = .field) : locate acc ty io (.base (.imm v)) s =
    .ok (.mem ((s.past ty (.base (.imm v))).pc - BitVec.ofNat 32 ty.size)) (s.past ty (.base (.imm v))) := by
  obtain rfl | rfl := h <;> rfl

theorem locate_base_eq {b : BaseSpec} (h : ∀ v, b ≠ .imm v) : locate acc ty io (.base b) s =
    (do checkSp ty.size b; Loc.mem <$> evalBase ty.size io b : M Loc) (s.past ty (.base b)) := by
  cases b with
  | imm v => exact absurd rfl (h v)
  | _ => rfl

/-- An operand is at the address its base specifier gives (R254 to R259). -/
theorem locate_base {b : BaseSpec} (hi : ∀ v, b ≠ .imm v) (h : s.AllowsBase ty b)
    (he : evalBase ty.size io b (s.past ty (.base b)) = .ok a t) : locate acc ty io (.base b) s = .ok (.mem a) t := by
  rw [locate_base_eq hi, bind_of_ok (checkSp_past _ h), map_run, bind_of_ok he]
  rfl

theorem locate_index_eq {x : Reg} {b : BaseSpec} (hx : x ≠ rPC) (hu : indexUnpredictable x b = false) :
    locate acc ty io (.index x b) s = (do
      checkSp ty.size b
      let base ← evalBase ty.size io b
      let r ← getReg x
      pure (.mem (base + r * BitVec.ofNat 32 ty.size)) : M Loc) (s.past ty (.index x b)) := by
  show (if x = rPC then reservedAddressing else if indexUnpredictable x b then unpredictable else _ : M Loc) _ = _
  rw [if_neg hx, if_neg (by simp [hu])]
  rfl

/-- The index register, times the size of the operand, is added to the address the base specifier gives (R260). -/
theorem locate_index {x : Reg} {b : BaseSpec} (hx : x ≠ rPC) (hu : indexUnpredictable x b = false) (h : s.AllowsBase ty b)
    (he : evalBase ty.size io b (s.past ty (.index x b)) = .ok a t) :
    locate acc ty io (.index x b) s = .ok (.mem (a + t.reg x * BitVec.ofNat 32 ty.size)) t := by
  rw [locate_index_eq hx hu, bind_of_ok (checkSp_past _ h), bind_of_ok he]
  rfl

/-- An operand based on SP is refused while SP points into I/O space (20_memory.md R230, D19). -/
theorem locate_base_refused {b : BaseSpec} (h : ¬s.AllowsBase ty b) :
    locate acc ty io (.base b) s = .error (.refuse .ioSpaceReference) (s.past ty (.base b)) := by
  have hi (v : BitVec 64) : b ≠ .imm v := by
    rintro rfl
    exact h fun e => by cases e
  rw [locate_base_eq hi, bind_of_error (checkSp_past_refused _ h)]

theorem locate_index_refused {x : Reg} {b : BaseSpec} (hx : x ≠ rPC) (hu : indexUnpredictable x b = false)
    (h : ¬s.AllowsBase ty b) :
    locate acc ty io (.index x b) s = .error (.refuse .ioSpaceReference) (s.past ty (.index x b)) := by
  rw [locate_index_eq hx hu, bind_of_error (checkSp_past_refused _ h)]

theorem readPointer_ok {va : Word} {p : Nat} (h : loadVirtIn s.cur io false false va 4 s = .ok p t) :
    readPointer io va s = .ok (BitVec.ofNat 32 p) t := by
  show (BitVec.ofNat 32 <$> loadVirtIn s.cur io false false va 4) s = _
  rw [map_run, bind_of_ok h]
  rfl

section
variable {size : Nat} {n : Reg}

theorem evalBase_regDef (h : n ≠ rPC) : evalBase size io (.regDef n) s = .ok (s.reg n) s :=
  congrFun (if_neg h) s

theorem evalBase_autoDec (h : n ≠ rPC) : evalBase size io (.autoDec n) s =
    .ok (s.reg n - BitVec.ofNat 32 size) (s.setReg n (s.reg n - BitVec.ofNat 32 size)) :=
  congrFun (if_neg h) s

theorem evalBase_autoInc (h : n ≠ rPC) : evalBase size io (.autoInc n) s =
    .ok (s.reg n) (s.setReg n (s.reg n + BitVec.ofNat 32 size)) :=
  congrFun (if_neg h) s

theorem evalBase_autoIncDef (h : n ≠ rPC) : evalBase size io (.autoIncDef n) s =
    readPointer io (s.reg n) (s.setReg n (s.reg n + 4)) :=
  congrFun (if_neg h) s

end

/-! ### The value of an operand (10_state.md R40; 20_memory.md R140, R190) -/

theorem State.regValue_eq (s : State) (w : Nat) (n : Reg) : s.regValue w n = BitVec.ofNat w
    (if w ≤ 32 then (s.reg n).toNat else (s.reg (n + 1)).toNat * 2 ^ 32 + (s.reg n).toNat) := by
  have hpair : (s.reg (n + 1) ++ s.reg n).toNat = (s.reg (n + 1)).toNat * 2 ^ 32 + (s.reg n).toNat := by
    rw [BitVec.toNat_append, ← Nat.shiftLeft_add_eq_or_of_lt (s.reg n).isLt, Nat.shiftLeft_eq]
  unfold State.regValue
  split
  · rw [BitVec.ofNat_toNat]
  · rw [← hpair, BitVec.ofNat_toNat]

/-- In a memory without errors the bytes at a list of addresses are read as they stand. -/
theorem cpuLoad_ok {pas : List Nat} {bs : List Byte} (he : s.errs.memory = []) (h : pas.map s.memByte = bs.map some) :
    cpuLoad pas s = .ok (littleEndian bs) s := by
  induction pas generalizing bs with
  | nil =>
    cases bs with
    | nil => rfl
    | cons b bs => cases h
  | cons pa pas ih =>
    cases bs with
    | nil => cases h
    | cons b bs =>
      obtain ⟨hb, hbs⟩ := List.cons.inj h
      obtain ⟨c, hc, rfl⟩ := Option.map_eq_some_iff.mp hb
      have hload : cpuLoadByte pa s = .ok (memRead s.mem c) s := by
        rw [cpuLoadByte, hc]
        dsimp only
        rw [State.readCell_good (State.errorAt_nil he c)]
      rw [cpuLoad, bind_of_ok hload, bind_of_ok (ih hbs)]
      rfl

theorem loadVirtIn_ok {mode : Mode} {ilk intent : Bool} {va : Word} {n : Nat} {pas : List Nat} {bs : List Byte}
    (ht : translateRange io va n intent mode s = .ok pas t) (hio : touchesIo pas = false) (he : t.errs.memory = [])
    (h : pas.map t.memByte = bs.map some) : loadVirtIn mode io ilk intent va n s = .ok (littleEndian bs) t := by
  rw [loadVirtIn, bind_of_ok ht, physLoad, hio]
  exact cpuLoad_ok he h

/-! ### Errors of the array (64_memory_controller.md R867, R868, R876, R880) -/

section
variable {pa c : Nat}

/-- The quadword that is written anew has no error, and every other quadword the one it had. -/
theorem State.errorAt_dropError (s : State) (c d : Nat) :
    (s.dropError c).errorAt d = if d / 8 = c / 8 then none else s.errorAt d := by
  simp only [State.errorAt, State.dropError, List.find?_filter]
  split
  · next h => simp [h]
  · next h =>
    congr 1
    funext e
    by_cases hq : e.quad = d / 8 <;> simp [hq, h]

theorem putByte_memByte (hc : s.cell pa = some c) (hw : Memory.wf s.mem = true) (v : Byte) :
    (s.putByte false pa c v).memByte pa = some v := by
  have hcell : (s.putByte false pa c v).cell pa = some c := hc
  rw [State.memByte, hcell]
  exact congrArg some (memRead_memWrite_same hw c v)

/-- A read whose flag was clear logs the error; one whose flag was set only raises High Error Rate; Inhibit CRD stays (R876). -/
theorem logReadError_flags (r : BitVec 31) (address : BitVec 20) (syndrome : Byte) :
    (logReadError r address syndrome).getLsbD 28 = true ∧ (logReadError r address syndrome).getLsbD 30 = r.getLsbD 30 ∧
      (logReadError r address syndrome).getLsbD 29 = (r.getLsbD 29 || r.getLsbD 28) := by
  have hbit {w i lo : Nat} (x : BitVec 31) (v : BitVec w) (hi : i < 31) :
      (setField x lo v).getLsbD i = if lo ≤ i ∧ i < lo + w then v.getLsbD (i - lo) else x.getLsbD i :=
    getLsbD_setField x lo v hi
  unfold logReadError setBit
  split
  · next h => simp [-BitVec.getLsbD_eq_getElem, hbit, h]
  · next h => simp [-BitVec.getLsbD_eq_getElem, hbit, h]

/-- Bit 3 of the requests is level 1B. -/
theorem setBit_three (x : BitVec 6) : setBit x 3 true = x ||| 8 := by
  revert x; decide

/-- What Register C k, that of controller b, holds after a read of a quadword with an error (R876). -/
def State.regCAfter (s : State) (b : Bank) (k c : Nat) : BitVec 31 :=
  logReadError (s.errs.regC.getD k 0) (b.errorAddress c) ((Config.freeValue s.free).setWidth 8)

/-- An error of the array written down in Register C k, that of controller b. -/
def State.logError (s : State) (b : Bank) (k c : Nat) : State :=
  { s with free := s.free + 1, errs := { s.errs with regC := s.errs.regC.set k (s.regCAfter b k c) } }

theorem State.logError_regC (s : State) (b : Bank) {k : Nat} (c : Nat) (h : k < s.errs.regC.length) :
    (s.logError b k c).errs.regC.getD k 0 = s.regCAfter b k c := by
  simp [State.logError, h]

/-- One bit wrong is corrected and logged (R868, R880). -/
theorem State.readCell_single {e : MemError} {b : Bank} {k : Nat} (he : s.errorAt c = some e) (hd : e.double = false)
    (hb : s.bankOf c = some (b, k)) : s.readCell c =
      (if sendsCrd (s.errs.regC.getD k 0) then .corrected else .good, (s.dropError c).logError b k c) := by
  simp only [State.readCell, he, hb, hd]
  rfl

theorem State.readCell_single_unlogged {e : MemError} (he : s.errorAt c = some e) (hd : e.double = false)
    (hb : s.bankOf c = none) : s.readCell c = (.good, s.dropError c) := by
  simp only [State.readCell, he, hb, hd]
  rfl

/-- Two bits wrong bring the substitute for data, and stay (R868). -/
theorem State.readCell_double {e : MemError} (he : s.errorAt c = some e) (hd : e.double = true) :
    ∃ t, s.readCell c = (.substitute, t) ∧ t.mem = s.mem ∧ t.errs.memory = s.errs.memory ∧
      t.errs.requests = s.errs.requests := by
  cases hb : s.bankOf c with
  | none => exact ⟨s, by simp only [State.readCell, he, hb, hd]; rfl, rfl, rfl, rfl⟩
  | some p => exact ⟨s.logError p.1 p.2 c, by simp only [State.readCell, he, hb, hd]; rfl, rfl, rfl, rfl⟩

theorem cpuLoadByte_good {u : State} (hc : s.cell pa = some c) (hr : s.readCell c = (.good, u)) :
    cpuLoadByte pa s = .ok (memRead s.mem c) u := by
  simp only [cpuLoadByte, hc, hr]

theorem cpuLoadByte_corrected {u : State} (hc : s.cell pa = some c) (hr : s.readCell c = (.corrected, u)) :
    cpuLoadByte pa s = .ok (memRead s.mem c) u.requestCrd := by
  simp only [cpuLoadByte, hc, hr]

theorem cpuLoadByte_substitute {u : State} (hc : s.cell pa = some c) (hr : s.readCell c = (.substitute, u)) :
    cpuLoadByte pa s = .error .readData u := by
  simp only [cpuLoadByte, hc, hr]

theorem cpuStoreByte_ok (hc : s.cell pa = some c) (v : Byte) :
    cpuStoreByte pa v s = .ok () (s.overwrite false pa c v) := by
  simp only [cpuStoreByte, hc]

/-- What Register C k and the requests hold after an error corrected by a read (R876, R880). -/
def CorrectionLogged (s t : State) (k : Nat) : Prop :=
  let r := s.errs.regC.getD k 0
  let r' := t.errs.regC.getD k 0
  r'.getLsbD 28 = true ∧ r'.getLsbD 30 = r.getLsbD 30 ∧ r'.getLsbD 29 = (r.getLsbD 29 || r.getLsbD 28) ∧
    t.errs.requests = if r.getLsbD 28 || r.getLsbD 30 then s.errs.requests else s.errs.requests ||| 8

theorem correctionLogged {b : Bank} {k : Nat} (hr : t.errs.regC.getD k 0 = s.regCAfter b k c)
    (hq : t.errs.requests = if sendsCrd (s.errs.regC.getD k 0) then setBit s.errs.requests 3 true else s.errs.requests) :
    CorrectionLogged s t k := by
  obtain ⟨h28, h30, h29⟩ :=
    logReadError_flags (s.errs.regC.getD k 0) (b.errorAddress c) ((Config.freeValue s.free).setWidth 8)
  refine ⟨hr ▸ h28, hr ▸ h30, hr ▸ h29, ?_⟩
  rw [hq, sendsCrd, setBit_three]
  cases (s.errs.regC.getD k 0).getLsbD 28 <;> cases (s.errs.regC.getD k 0).getLsbD 30 <;> rfl

/-- A byte in a quadword with one bit wrong is read corrected, the quadword made good, the error logged. -/
theorem cpuLoadByte_single {e : MemError} (hc : s.cell pa = some c) (he : s.errorAt c = some e) (hd : e.double = false) :
    ∃ t, cpuLoadByte pa s = .ok (memRead s.mem c) t ∧ t.mem = s.mem ∧ t.errorAt c = none ∧
      (∀ d, d / 8 ≠ c / 8 → t.errorAt d = s.errorAt d) ∧
      ∀ bank k, s.bankOf c = some (bank, k) → k < s.errs.regC.length → CorrectionLogged s t k := by
  have hsame : (s.dropError c).errorAt c = none := by rw [State.errorAt_dropError, if_pos rfl]
  have hother (d : Nat) (h : d / 8 ≠ c / 8) : (s.dropError c).errorAt d = s.errorAt d := by
    rw [State.errorAt_dropError, if_neg h]
  cases hb : s.bankOf c with
  | none =>
    exact ⟨_, cpuLoadByte_good hc (State.readCell_single_unlogged he hd hb), rfl, hsame, hother, fun _ _ h => by cases h⟩
  | some p =>
    obtain ⟨b, k⟩ := p
    have hr := State.readCell_single he hd hb
    have hreg (hlt : k < s.errs.regC.length) := (s.dropError c).logError_regC b c hlt
    cases hs : sendsCrd (s.errs.regC.getD k 0) with
    | true =>
      rw [hs, if_pos rfl] at hr
      refine ⟨_, cpuLoadByte_corrected hc hr, rfl, hsame, hother, fun bank k' hbank hlt => ?_⟩
      cases hbank
      exact correctionLogged (hreg hlt) (by rw [hs]; rfl)
    | false =>
      rw [hs, if_neg (by decide)] at hr
      refine ⟨_, cpuLoadByte_good hc hr, rfl, hsame, hother, fun bank k' hbank hlt => ?_⟩
      cases hbank
      exact correctionLogged (hreg hlt) (by rw [hs]; rfl)

/-- A byte stored in a quadword with one bit wrong is stored, the quadword made good. -/
theorem cpuStoreByte_single {e : MemError} (hc : s.cell pa = some c) (hw : Memory.wf s.mem = true)
    (he : s.errorAt c = some e) (hd : e.double = false) (v : Byte) :
    ∃ t, cpuStoreByte pa v s = .ok () t ∧ t.memByte pa = some v ∧ t.errorAt c = none := by
  have ho : s.overwrite false pa c v = (s.dropError c).putByte false pa c v := by
    simp only [State.overwrite, he, hd]
    rfl
  have hsame : (s.dropError c).errorAt c = none := by rw [State.errorAt_dropError, if_pos rfl]
  exact ⟨_, cpuStoreByte_ok hc v, by rw [ho]; exact putByte_memByte (s := s.dropError c) hc hw v, by rw [ho]; exact hsame⟩

/-- A byte stored in a good quadword is stored. -/
theorem cpuStoreByte_good (hc : s.cell pa = some c) (hw : Memory.wf s.mem = true) (he : s.errorAt c = none) (v : Byte) :
    ∃ t, cpuStoreByte pa v s = .ok () t ∧ t.memByte pa = some v ∧ t.errs = s.errs := by
  have ho : s.overwrite false pa c v = s.putByte false pa c v := by simp only [State.overwrite, he]
  exact ⟨_, cpuStoreByte_ok hc v, by rw [ho]; exact putByte_memByte hc hw v, by rw [ho]; rfl⟩

/-- A byte stored in a quadword with two bits wrong is lost (R867). -/
theorem cpuStoreByte_double {e : MemError} (hc : s.cell pa = some c) (he : s.errorAt c = some e) (hd : e.double = true)
    (v : Byte) : cpuStoreByte pa v s = .ok () s := by
  have ho : s.overwrite false pa c v = s := by
    simp only [State.overwrite, he, hd]
    rfl
  rw [cpuStoreByte_ok hc, ho]

theorem cpuLoadByte_double {e : MemError} (hc : s.cell pa = some c) (he : s.errorAt c = some e) (hd : e.double = true) :
    ∃ t, cpuLoadByte pa s = .error .readData t ∧ t.mem = s.mem ∧ t.errs.memory = s.errs.memory ∧
      t.errs.requests = s.errs.requests := by
  obtain ⟨t, hr, hmem, herr, hreq⟩ := State.readCell_double he hd
  exact ⟨t, cpuLoadByte_substitute hc hr, hmem, herr, hreq⟩

end

/-! ### The physical addresses of an operand's bytes (20_memory.md R170, R190) -/

section
variable {va : Word} {n : Nat} {write : Bool} {mode : Mode} {u : State} {pa pa2 : Nat}

theorem vaOffset_eq (va : Word) : vaOffset va = va.toNat % 512 := BitVec.toNat_setWidth ..

theorem translateRange_unmapped (hm : s.ipr.mapen = false) :
    translateRange io va n write mode s = .ok (paRange va.toNat n) s := by
  have hpa : paRange (unmappedPa va) n = paRange va.toNat n := by
    have hu : unmappedPa va = va.toNat % 0x40000000 := BitVec.toNat_setWidth ..
    simp only [paRange, hu, Nat.mod_add_mod]
  rw [translateRange, bind_of_ok (get_run s), hm, hpa]
  rfl

theorem translateRange_onePage (hm : s.ipr.mapen = true) (hn : n ≤ 512 - va.toNat % 512)
    (ht : translate io va write mode s = .ok pa t) : translateRange io va n write mode s = .ok (paRange pa n) t := by
  rw [← vaOffset_eq] at hn
  rw [translateRange, bind_of_ok (get_run s), hm]
  dsimp only
  rw [if_neg (by decide), if_pos hn, bind_of_ok ht]
  rfl

/-- With memory management on, a read is translated by the PTE of its page, and no register of the memory map changes. -/
theorem translate_read_ok (hm : s.ipr.mapen = true) (h : translate io va false mode s = .ok pa t) :
    t.ipr.mapen = true ∧ ∃ e, checkedPte io va false mode s = .ok e t ∧ ptePa e.pte va = pa := by
  rw [translate, bind_of_ok (get_run s), hm] at h
  obtain ⟨e, v, hv, h⟩ := bind_ok h
  injection h with hpa hvt
  subst hvt
  have hk := (checkedPte_kept (io := io) (wr := false) (regs := []) va false mode).ok hv
  exact ⟨by rw [hk.ipr, hm], e, hv, hpa⟩

theorem tryCatch_of_ok {α : Type} {x : M α} {f : Trap → M α} {a : α} (h : x s = .ok a t) :
    (tryCatch x f : M α) s = .ok a t := by
  show EStateM.tryCatch x f s = _
  simp only [EStateM.tryCatch, h]

theorem translateTwo_read {va2 : Word} {e1 e2 : TbEntry} (h : checkedTwo io va va2 false mode s = .ok (e1, e2) t) :
    translateTwo io va va2 false mode s = .ok (ptePa e1.pte va, ptePa e2.pte va2) t := by
  rw [translateTwo, bind_of_ok h]
  rfl

/-- The bytes of a read over two pages are at the addresses of the one, then of the other (R190). -/
theorem translateRange_twoPages (hm : s.ipr.mapen = true) (hn : 512 - va.toNat % 512 < n)
    (h1 : translate io va false mode s = .ok pa t)
    (h2 : translate io (va + num (512 - va.toNat % 512)) false mode t = .ok pa2 u) :
    translateRange io va n false mode s =
      .ok (paRange pa (512 - va.toNat % 512) ++ paRange pa2 (n - (512 - va.toNat % 512))) u := by
  obtain ⟨hmt, e1, hp1, rfl⟩ := translate_read_ok hm h1
  obtain ⟨-, e2, hp2, rfl⟩ := translate_read_ok hmt h2
  have htwo : checkedTwo io va (va + num (512 - va.toNat % 512)) false mode s = .ok (e1, e2) u := by
    rw [checkedTwo, bind_of_ok (tryCatch_of_ok hp1), bind_of_ok (tryCatch_of_ok hp2)]
    rfl
  rw [← vaOffset_eq] at hn htwo ⊢
  rw [translateRange, bind_of_ok (get_run s), hm]
  dsimp only
  rw [if_neg (by decide), if_neg (by omega), bind_of_ok (translateTwo_read htwo)]
  rfl

end

/-! ### The obligation -/

/-- The base specifiers that step their register, or take it as it is (R254 to R257). -/
theorem locate_register_based (acc : Access) (ty : DType) (io : Bool) (s : State) {n : Reg} (h : n ≠ rPC) :
    (s.AllowsBase ty (.regDef n) →
      locate acc ty io (.base (.regDef n)) s = .ok (.mem (s.reg n)) (s.past ty (.base (.regDef n)))) ∧
    (s.AllowsBase ty (.autoDec n) → locate acc ty io (.base (.autoDec n)) s = .ok (.mem (s.reg n - BitVec.ofNat 32 ty.size))
      ((s.past ty (.base (.autoDec n))).setReg n (s.reg n - BitVec.ofNat 32 ty.size))) ∧
    (s.AllowsBase ty (.autoInc n) → locate acc ty io (.base (.autoInc n)) s = .ok (.mem (s.reg n))
      ((s.past ty (.base (.autoInc n))).setReg n (s.reg n + BitVec.ofNat 32 ty.size))) ∧
    ∀ p t, s.AllowsBase ty (.autoIncDef n) →
      loadVirtIn s.cur io false false (s.reg n) 4 ((s.past ty (.base (.autoIncDef n))).setReg n (s.reg n + 4)) = .ok p t →
      locate acc ty io (.base (.autoIncDef n)) s = .ok (.mem (BitVec.ofNat 32 p)) t := by
  have hreg (sp : Spec) : (s.past ty sp).reg n = s.reg n := s.past_reg ty sp h
  refine ⟨fun hb => ?_, fun hb => ?_, fun hb => ?_, fun p t hb hp => ?_⟩
  · rw [← hreg (.base (.regDef n))]
    exact locate_base (by simp) hb (evalBase_regDef h)
  · rw [← hreg (.base (.autoDec n))]
    exact locate_base (by simp) hb (evalBase_autoDec h)
  · rw [← hreg (.base (.autoInc n))]
    exact locate_base (by simp) hb (evalBase_autoInc h)
  · rw [← hreg (.base (.autoIncDef n))] at hp
    exact locate_base (by simp) hb ((evalBase_autoIncDef h).trans (readPointer_ok hp))

/-- Settles O45, clause by clause from the rules of each mode, of the values, of the errors and of the addresses. -/
theorem operandModes : Obligations.OperandModes := by
  refine ⟨fun acc ty io s => ?_, fun w io ilk intent s t => ?_, fun s pa c hc hw => ?_,
    fun io va n write mode s t u pa pa2 => ?_⟩
  · intro based at_ size
    have hbase (b : BaseSpec) : based b ↔ s.AllowsBase ty b := by cases b <;> exact Iff.rfl
    simp only [hbase]
    refine ⟨fun v ha => ?_, fun v ha => ?_, fun n ha hpc hsp => locate_reg ha hpc hsp, fun n ha => ?_, fun v ha => ?_,
      fun v ha => locate_imm ha, fun n hn => locate_register_based acc ty io s hn,
      fun a => locate_base (by simp) nofun rfl, fun n d hb => locate_base (by simp) hb rfl,
      fun n d hb => locate_base (by simp) hb rfl, fun n d hb => locate_base (by simp) hb rfl,
      fun n d p t hb hp => locate_base (by simp) hb (readPointer_ok hp),
      fun n d p t hb hp => locate_base (by simp) hb (readPointer_ok hp),
      fun n d p t hb hp => locate_base (by simp) hb (readPointer_ok hp),
      fun x b a t hx hu hb he => locate_index hx hu hb he, fun b => rfl, fun x b => rfl,
      fun b hb => ⟨locate_base_refused hb, fun x hx hu => locate_index_refused hx hu hb⟩⟩
    · rw [locate_lit, if_pos ha, literalValue_eq]; rfl
    · rw [locate_lit, if_neg ha]; rfl
    · subst ha; rfl
    · subst ha; rfl
  · refine ⟨fun sp l h => bind_of_ok h, fun v => ?_, fun n => ?_, fun ea pas bs ht hio he hb => ?_,
      fun mode va n pas bs ht hio he hb => loadVirtIn_ok ht hio he hb⟩
    · rw [BitVec.ofNat_toNat]; rfl
    · rw [← State.regValue_eq]; rfl
    · rw [loadLoc, bind_of_ok (get_run s), map_run, bind_of_ok (loadVirtIn_ok ht hio he hb)]; rfl
  · exact ⟨fun he => ⟨cpuLoadByte_good hc (State.readCell_good he), cpuStoreByte_good hc hw he⟩,
      fun e he hd => ⟨cpuLoadByte_single hc he hd, cpuStoreByte_single hc hw he hd⟩,
      fun e he hd => ⟨cpuLoadByte_double hc he hd, cpuStoreByte_double hc he hd⟩⟩
  · exact ⟨translateRange_unmapped, translateRange_onePage, translateRange_twoPages⟩

end Sys2Proof.Machine
end
